-- ==== Sys2Proof/Word.lean ====
section
/-! DEFINITION. The widths of the hardware's words (rule R6, rule R8): all values are unsigned, bit 0 is the
least significant bit. -/

namespace Sys2Proof

/-- A byte of memory or a general register (R21, R35). -/
abbrev Byte := BitVec 8

/-- A 16-bit word: an opcode, pc, I, a stack slot, a field of the fault record (R23, R24, R28, R37). -/
abbrev Word := BitVec 16

/-- The address operand nnn of format A (R91, R92). -/
abbrev Addr12 := BitVec 12

/-- The byte string `hi ++ lo` as one word, `hi` in the high bits (R8, R62). -/
abbrev bigEndian (hi lo : Byte) : Word := hi ++ lo

end Sys2Proof
end

