-- ==== Sys2Proof/Config.lean ====
section
/-! DEFINITION. What the spec leaves open and the model keeps open: the random source. The other open
parameter, the font table, has a stated default (rule R34) and stands in Machine/Font.lean. The fixed
parameters of rule R6 stand as numerals where they are used, as in the spec's own pseudocode. -/

namespace Sys2Proof.Config

/-- DESIGN CHOICE (log 2). `RandomByte` of rules R7 and R171: the byte the n-th completed Cxnn draws. It has no
body, so nothing can be proved of its values: the spec's "any value 0..255, under no law". -/
opaque randomByte : Nat → Byte

end Sys2Proof.Config
end

