-- ==== Sys2Proof/Machine/Font.lean ====
section
/-! DEFINITION. The parameter FONT of rule R7: the 80 bytes of the font table, 16 glyphs of 5 bytes, glyph d at 5*d (rule
R34). The source lists no byte of it, so the model takes it as an argument: every definition works for any `Font`, and a
statement about every state is one about every font. PRESUMED (log 4): `Font.conventional` is the default that rule R34
gives, marked there as general knowledge; `State.reset` alone uses it, and no statement of this package rests on a
byte of it. -/

namespace Sys2Proof.Machine

/-- A value of the parameter FONT (R7). -/
abbrev Font := Vector Byte 80

/-- The 80 bytes of the conventional font, one glyph a line (R34). -/
def fontTable : List Byte :=
  [0xF0#8, 0x90#8, 0x90#8, 0x90#8, 0xF0#8]
  ++ [0x20#8, 0x60#8, 0x20#8, 0x20#8, 0x70#8]
  ++ [0xF0#8, 0x10#8, 0xF0#8, 0x80#8, 0xF0#8]
  ++ [0xF0#8, 0x10#8, 0xF0#8, 0x10#8, 0xF0#8]
  ++ [0x90#8, 0x90#8, 0xF0#8, 0x10#8, 0x10#8]
  ++ [0xF0#8, 0x80#8, 0xF0#8, 0x10#8, 0xF0#8]
  ++ [0xF0#8, 0x80#8, 0xF0#8, 0x90#8, 0xF0#8]
  ++ [0xF0#8, 0x10#8, 0x20#8, 0x40#8, 0x40#8]
  ++ [0xF0#8, 0x90#8, 0xF0#8, 0x90#8, 0xF0#8]
  ++ [0xF0#8, 0x90#8, 0xF0#8, 0x10#8, 0xF0#8]
  ++ [0xF0#8, 0x90#8, 0xF0#8, 0x90#8, 0x90#8]
  ++ [0xE0#8, 0x90#8, 0xE0#8, 0x90#8, 0xE0#8]
  ++ [0xF0#8, 0x80#8, 0x80#8, 0x80#8, 0xF0#8]
  ++ [0xE0#8, 0x90#8, 0x90#8, 0x90#8, 0xE0#8]
  ++ [0xF0#8, 0x80#8, 0xF0#8, 0x80#8, 0xF0#8]
  ++ [0xF0#8, 0x80#8, 0xF0#8, 0x80#8, 0x80#8]

/-- The default of FONT (R34). -/
def Font.conventional : Font := ⟨fontTable.toArray, rfl⟩

/-- What `reset()` installs at address a (R35, R42): FONT at 0x000..0x04F and 0x00 elsewhere. -/
def Font.resetByte (font : Font) (a : Nat) : Byte := if h : a < 80 then font.get ⟨a, h⟩ else 0x00#8

end Sys2Proof.Machine
end

