-- ==== Sys2Proof/Machine/State.lean ====
section
/-! DEFINITION. The state of the hardware (rule R20) as plain data, the reasons a step could stop, and the state
after reset (rule R42). -/

namespace Sys2Proof.Machine

/-- The cells of `mem` that differ from their reset contents (log 3): addresses strictly rising, no cell equal to
what an unlisted address reads as (`Memory.wf`, `Memory.unlisted` in Machine/Memory.lean). -/
abbrev Memory := List Host.Cell

/-- The framebuffer `fb[r][c]` (R32): 32 rows of 64 pixels. -/
abbrev Framebuffer := Vector (Vector Bool 64) 32

/-- The causes of a fault (R260), in the order of their codes 1 to 5. -/
inductive Cause where
  | unknownOpcode
  | stackOverflow
  | stackUnderflow
  | outOfRangeAddress
  | keyIndexOutOfRange
  deriving DecidableEq, Repr

/-- The control state `run` (R36), with the fault record of R37. -/
inductive Run where
  | running
  | awaitingKey (t : Reg)
  | faulted (cause : Cause) (pc info : Word)
  deriving DecidableEq, Repr

/-- Reasons for which a step would stop without a next state. There is none: every fault of this hardware is an
exception whose entry the spec describes (R266), a NEXT state in which `run` is `Faulted` (log 5; safe). -/
inductive Fault where
  deriving DecidableEq, Repr

/-- Reasons for which the model gives an instruction no meaning. -/
inductive Refusal where
  /-- Raised by `exec` alone, for an instruction without a meaning, under its table mnemonic; every row has a
  meaning, so nothing raises it now (safe: a refused instruction proves nothing). -/
  | notModelled (mnemonic : String)
  deriving DecidableEq, Repr

/-- The complete state: the twelve items of rule R20, under the spec's own names; beside them the parameter FONT the
engine was made with and the model's counter of random draws. -/
structure State where
  /-- `mem` (R35) -/
  mem : Memory
  /-- `V[0..15]` (R21); `V[0xF]` is the flag register (R22) -/
  V : Vector Byte 16
  /-- the index register (R23) -/
  I : Word
  /-- the program counter: the address of the instruction being executed (R24) -/
  pc : Word
  /-- the 16 slots of the call stack (R28) -/
  stack : Vector Word 16
  /-- the number of slots in use, 0..16 (R29) -/
  sp : Fin 17
  /-- the delay timer (R30) -/
  DT : Byte
  /-- the sound timer (R31) -/
  ST : Byte
  /-- the framebuffer (R32) -/
  fb : Framebuffer
  /-- the key latch (R33) -/
  key : Vector Bool 16
  /-- the run state (R36) -/
  run : Run
  /-- `frame_dirty` (R38) -/
  frameDirty : Bool
  /-- THE MODEL'S OWN: how many random bytes completed Cxnn have drawn (log 2) -/
  draws : Nat
  /-- NOT AN ITEM OF R20: the parameter FONT (R7), which the model takes as an argument; no operation changes it (log 4) -/
  font : Font
  deriving DecidableEq, Repr

/-- The state after `reset()` (R42, R290) of an engine with this FONT. Memory lists nothing: every address holds its reset
contents, FONT at 0..79 and 0 elsewhere. `draws` is the model's own, 0 by DESIGN CHOICE (log 2). -/
def State.resetWith (font : Font) : State where
  mem := []
  V := Vector.replicate 16 0#8
  I := 0x0000#16
  pc := 0x0200#16
  stack := Vector.replicate 16 0x0000#16
  sp := 0
  DT := 0#8
  ST := 0#8
  fb := Vector.replicate 32 (Vector.replicate 64 false)
  key := Vector.replicate 16 false
  run := .running
  frameDirty := false
  draws := 0
  font := font

/-- The state after `reset()` with the default FONT of rule R34 (log 4). -/
def State.reset : State := State.resetWith Font.conventional

end Sys2Proof.Machine
end

