-- ==== Sys2Proof/Machine/Memory.lean ====
section
/-! DEFINITION. The memory primitives MemRead and MemWrite of rule R10 over the canonical list, and the fetch's
big-endian word (rule R62). The range check stands in the instruction, before the primitive (rules R10, R64). -/

namespace Sys2Proof.Machine

/-- What an address that the list does not hold reads as: its contents after `reset()` (R35, R61), the font table at
0x000..0x04F and 0x00 elsewhere (log 3). -/
def Memory.unlisted (font : Font) (a : Nat) : Byte := font.resetByte a

/-- `MemRead(a, 1)` (R67): the byte most recently written to a. -/
def Memory.read (font : Font) : Memory → Nat → Byte
  | [], a => Memory.unlisted font a
  | (a', b') :: rest, a => if a = a' then b' else Memory.read font rest a

/-- A cell in front of a list of higher addresses, left out where it would hold what an unlisted address reads as. -/
def Memory.cell (font : Font) (a : Nat) (b : Byte) (rest : Memory) : Memory :=
  if b = Memory.unlisted font a then rest else (a, b) :: rest

/-- `MemWrite(a, 1, b)` (R67): exactly the byte at a changes. The list keeps its canonical form. -/
def Memory.write (font : Font) : Memory → Nat → Byte → Memory
  | [], a, b => Memory.cell font a b []
  | (a', b') :: rest, a, b =>
    if a < a' then Memory.cell font a b ((a', b') :: rest)
    else if a = a' then Memory.cell font a b rest
    else (a', b') :: Memory.write font rest a b

/-- The bytes written at a, a+1, ... in order (R63): Fx33, Fx55 and `loadGame`. -/
def Memory.writeBytes (font : Font) : Memory → Nat → List Byte → Memory
  | m, _, [] => m
  | m, a, b :: bs => Memory.writeBytes font (Memory.write font m a b) (a + 1) bs

/-- The list is canonical from address `lo` on: addresses strictly rising and inside 0x000..0xFFF (R60), no cell equal
to what an unlisted address reads as. -/
def Memory.wfFrom (font : Font) (lo : Nat) : Memory → Bool
  | [] => true
  | (a, b) :: rest =>
    decide (lo ≤ a) && decide (a ≤ 0xFFF) && decide (b ≠ Memory.unlisted font a) && Memory.wfFrom font (a + 1) rest

/-- The canonical form of the memory list: equal memories are equal data. -/
def Memory.wf (font : Font) (m : Memory) : Bool := Memory.wfFrom font 0 m

/-! ### The memory of a state -/

/-- `mem[a]` (R10, R67). -/
def State.memByte (s : State) (a : Nat) : Byte := Memory.read s.font s.mem a

/-- `MemRead(a, 2)` (R10, R62): the high byte at a, the low byte at a+1. -/
def State.memWord (s : State) (a : Nat) : Word := bigEndian (s.memByte a) (s.memByte (a + 1))

/-- The bytes stored at a, a+1, ... in order. -/
def State.storeBytes (s : State) (a : Nat) (bytes : List Byte) : State :=
  { s with mem := Memory.writeBytes s.font s.mem a bytes }

/-- The memory list of the state is canonical. -/
def State.memWf (s : State) : Bool := Memory.wf s.font s.mem

end Sys2Proof.Machine
end

