-- ==== Sys2Proof/Machine/Ops.lean ====
section
/-! DEFINITION. The named operations over the state (rule R10): reading and writing each item, fault entry (rule R266)
and the only way out of it (rule R268), and the write of pc that ends an instruction (rule R11, `advance`). -/

namespace Sys2Proof.Machine

/-- What an operation of the engine answers. -/
abbrev Result := Host.Outcome State Fault Refusal

/-- The next state of an answer, if it is one. -/
def nextState? : Result → Option State
  | .next s => some s
  | .fault _ => none
  | .refused _ => none

/-! ### Registers, stack, timers, framebuffer, latch -/

/-- `V[x]` (R10, R21). -/
def State.getV (s : State) (x : Reg) : Byte := s.V.get x

/-- `V[x] <- b` (R10, R21). -/
def State.setV (s : State) (x : Reg) (b : Byte) : State := { s with V := s.V.set x.val b x.isLt }

/-- `I <- w` (R23). -/
def State.setI (s : State) (w : Word) : State := { s with I := w }

/-- `pc <- w` (R24); `commit` is its only caller in the engine. -/
def State.setPc (s : State) (w : Word) : State := { s with pc := w }

/-- The slot `stack[j]` (R28). -/
def State.slot (s : State) (j : Fin 16) : Word := s.stack.get j

/-- `stack[sp] <- w; sp <- sp + 1`, where the stack is not full (R29, R142). -/
def State.push (s : State) (h : s.sp.val < 16) (w : Word) : State :=
  { s with stack := s.stack.set s.sp.val w h, sp := ⟨s.sp.val + 1, by omega⟩ }

/-- The slot a return reads: `stack[sp - 1]`, where the stack is not empty (R29, R140). -/
def State.top (s : State) (h : 0 < s.sp.val) : Word :=
  s.slot ⟨s.sp.val - 1, by have := s.sp.isLt; omega⟩

/-- `sp <- sp - 1`; the slot keeps its value (R140). -/
def State.pop (s : State) (h : 0 < s.sp.val) : State :=
  { s with sp := ⟨s.sp.val - 1, by have := s.sp.isLt; omega⟩ }

/-- `DT <- b` (R30). -/
def State.setDT (s : State) (b : Byte) : State := { s with DT := b }

/-- `ST <- b` (R31). -/
def State.setST (s : State) (b : Byte) : State := { s with ST := b }

/-- The write of the framebuffer together with `frame_dirty <- 1` (R210, R212, R215). -/
def State.show (s : State) (fb : Framebuffer) : State := { s with fb := fb, frameDirty := true }

/-- `run <- r` (R36). -/
def State.setRun (s : State) (r : Run) : State := { s with run := r }

/-- The bytes `V[0..x]` in order (R194). -/
def State.regsTo (s : State) (x : Reg) : List Byte := s.V.toList.take (x.val + 1)

/-- `V[k] <- mem[a + k]` for k in 0..x, the registers above Vx kept (R195). -/
def State.loadRegsFrom (s : State) (x : Reg) (a : Nat) : State :=
  { s with V := Vector.ofFn fun k : Fin 16 =>
      if k.val ≤ x.val then s.memByte (a + k.val) else s.getV k }

/-- The random draw of this step (R171): the free byte (log 2). -/
def State.randomByte (s : State) : Byte := Config.randomByte s.draws

/-- The draw is consumed. -/
def State.consumeDraw (s : State) : State := { s with draws := s.draws + 1 }

/-! ### Fault entry (rule R266) -/

/-- Taking a fault, the one shared operation: `run <- Faulted(cause, pc, info)` with the pc the operation began with;
nothing else changes (R11, R37, R265, R266). `s` is the state the operation began in, so every write it made is
discarded. No vector, no handler, no mode change, nothing pushed. -/
def State.enterFault (s : State) (c : Cause) (info : Word) : State := s.setRun (.faulted c s.pc info)

/-- `raise c(info)` (R10, R11). -/
def raise (s : State) (c : Cause) (info : Word) : Result := .next (s.enterFault c info)

/-- `raise OutOfRangeAddress(t)` (R264); t fits 16 bits in every state with pc at most 0xFFF (log 10). -/
def raiseRange (s : State) (t : Nat) : Result := raise s .outOfRangeAddress (BitVec.ofNat 16 t)

/-- Leaving a fault: there is no return from one, only `reset()`, which discards the record with all other state
(R268, R290). The parameter FONT is the engine's own (log 4), and the model's draw counter goes on (log 2). -/
def State.leaveByReset (s : State) : State := { State.resetWith s.font with draws := s.draws }

/-! ### The end of an instruction: the write of pc -/

/-- `if t > 0xFFF then raise OutOfRangeAddress(t); pc <- t`, where `s` is the state the operation began in and `s'`
holds its writes (R11, R27, R143). -/
def commit (s s' : State) (t : Nat) : Result :=
  if t > 0xFFF then raiseRange s t else .next (s'.setPc (BitVec.ofNat 16 t))

/-- `advance(k)` (R11, R25, R125). -/
def advance (k : Nat) (s s' : State) : Result := commit s s' (s.pc.toNat + k)

/-- The end of a conditional skip: `advance(4)` if the condition holds, else `advance(2)` (R124, R126). -/
def skipIf (cond : Bool) (s : State) : Result := advance (if cond then 4 else 2) s s

end Sys2Proof.Machine
end

