-- ==== Sys2Proof/Machine/Flags.lean ====
section
/-! DEFINITION. The flag computations: what the instructions of rule R22 leave in VF. -/

namespace Sys2Proof.Machine

/-- A flag as the byte VF holds: 1 or 0. -/
def flagByte (f : Bool) : Byte := if f then 1#8 else 0#8

/-- 8xy4: the true sum exceeds 255 (R166). -/
def carryOut (a b : Byte) : Bool := decide (a.toNat + b.toNat > 255)

/-- 8xy5 and 8xy7: no borrow occurs in `a - b`, that is a >= b (R22, R167, R169). -/
def noBorrow (a b : Byte) : Bool := decide (b.toNat ≤ a.toNat)

/-- 8xy6: the bit shifted out at the bottom, bit 0 (R168). -/
def bitOutRight (a : Byte) : Bool := a.getLsbD 0

/-- 8xyE: the bit shifted out at the top, bit 7 (R170). -/
def bitOutLeft (a : Byte) : Bool := a.getLsbD 7

/-- `V[0xF] <- (f ? 1 : 0)`. -/
def State.setFlag (s : State) (f : Bool) : State := s.setV Reg.F (flagByte f)

end Sys2Proof.Machine
end

