-- ==== Sys2Proof/Machine/Alu.lean ====
section
/-! DEFINITION. Register and ALU instructions (42_alu.md). The statements of each rule run in the order written and a
read sees every earlier write (rules R11 and R173): the flag is written before the result. -/

namespace Sys2Proof.Machine

/-- `V[x] <- b; advance(2)`: the instructions that write one register and no flag. -/
def writeReg (s : State) (x : Reg) (b : Byte) : Result := advance 2 s (s.setV x b)

/-- 6xnn LD Vx, nn (R160). -/
def execLdImm (x : Reg) (nn : Byte) (s : State) : Result := writeReg s x nn

/-- 7xnn ADD Vx, nn (R161): modulo 256, no flag. -/
def execAddImm (x : Reg) (nn : Byte) (s : State) : Result := writeReg s x (s.getV x + nn)

/-- 8xy0 LD Vx, Vy (R162). -/
def execLdReg (x y : Reg) (s : State) : Result := writeReg s x (s.getV y)

/-- 8xy1 OR Vx, Vy (R163). -/
def execOrReg (x y : Reg) (s : State) : Result := writeReg s x (s.getV x ||| s.getV y)

/-- 8xy2 AND Vx, Vy (R164). -/
def execAndReg (x y : Reg) (s : State) : Result := writeReg s x (s.getV x &&& s.getV y)

/-- 8xy3 XOR Vx, Vy (R165). -/
def execXorReg (x y : Reg) (s : State) : Result := writeReg s x (s.getV x ^^^ s.getV y)

/-- 8xy4 ADD Vx, Vy (R166): both operands are read before VF is written, the flag first and the sum second. -/
def execAddReg (x y : Reg) (s : State) : Result :=
  let sum := s.getV x + s.getV y
  let s1 := s.setFlag (carryOut (s.getV x) (s.getV y))
  advance 2 s (s1.setV x sum)

/-- 8xy5 SUB Vx, Vy (R167): the flag first, then the difference of the registers as the flag's write left them. -/
def execSub (x y : Reg) (s : State) : Result :=
  let s1 := s.setFlag (noBorrow (s.getV x) (s.getV y))
  advance 2 s (s1.setV x (s1.getV x - s1.getV y))

/-- 8xy6 SHR Vx (R168): Vx is shifted, y is not used. -/
def execShr (x _y : Reg) (s : State) : Result :=
  let s1 := s.setFlag (bitOutRight (s.getV x))
  advance 2 s (s1.setV x (s1.getV x >>> 1))

/-- 8xy7 SUBN Vx, Vy (R169): `Vx = Vy - Vx`, in the order of R167. -/
def execSubn (x y : Reg) (s : State) : Result :=
  let s1 := s.setFlag (noBorrow (s.getV y) (s.getV x))
  advance 2 s (s1.setV x (s1.getV y - s1.getV x))

/-- 8xyE SHL Vx (R170): Vx is shifted, y is not used. -/
def execShl (x _y : Reg) (s : State) : Result :=
  let s1 := s.setFlag (bitOutLeft (s.getV x))
  advance 2 s (s1.setV x (s1.getV x <<< 1))

/-- Cxnn RND Vx, nn (R171): the draw is consumed only if the instruction completes. -/
def execRnd (x : Reg) (nn : Byte) (s : State) : Result :=
  advance 2 s ((s.setV x (s.randomByte &&& nn)).consumeDraw)

end Sys2Proof.Machine
end

