-- ==== Sys2Proof/Decode.lean ====
section
/-! DEFINITION. Instruction encoding (30_encoding.md): the fields of an opcode, the two-level decoder (rule R93),
total on every word and rejecting by name, and after it the encoder, written from the same formats (rule R91). -/

namespace Sys2Proof

/-! ### Fields (rules R9 and R92) -/

/-- `op[15:12]`, the family selector. -/
def familyField (op : Word) : BitVec 4 := op.extractLsb' 12 4

/-- `x = op[11:8]`. -/
def xField (op : Word) : Reg := (op.extractLsb' 8 4).toFin

/-- `y = op[7:4]`. -/
def yField (op : Word) : Reg := (op.extractLsb' 4 4).toFin

/-- `n = op[3:0]`, also the function nibble of format R. -/
def nField (op : Word) : BitVec 4 := op.extractLsb' 0 4

/-- `nn = op[7:0]`, also the function byte of format X. -/
def nnField (op : Word) : Byte := op.extractLsb' 0 8

/-- `nnn = op[11:0]`. -/
def nnnField (op : Word) : Addr12 := op.extractLsb' 0 12

/-! ### Decoder -/

/-- What the decoder answers. -/
inductive Decoded where
  /-- the word is this instruction -/
  | instr (i : Instr)
  /-- no row of the opcode table matches the word (R110): the engine raises UnknownOpcode (R122) -/
  | unknownOpcode (op : Word)
  /-- fewer than the two bytes of an instruction were given (R90); a fetch never hands this to the engine -/
  | truncated
  deriving DecidableEq, Repr

/-- Family 0x0 (R94): two full words. -/
def decodeFamily0 (op : Word) : Decoded :=
  if op = 0x00E0#16 then .instr .cls
  else if op = 0x00EE#16 then .instr .ret
  else .unknownOpcode op

/-- Families 0x5 and 0x9 (R97, R111): the low nibble must be 0. -/
def decodeFamily59 (i : Instr) (op : Word) : Decoded :=
  if nField op = 0#4 then .instr i else .unknownOpcode op

/-- Family 0x8 (R98), selected by the low nibble. -/
def decodeFamily8 (op : Word) : Decoded :=
  let x := xField op
  let y := yField op
  match nField op with
  | 0x0#4 => .instr (.ldReg x y)
  | 0x1#4 => .instr (.orReg x y)
  | 0x2#4 => .instr (.andReg x y)
  | 0x3#4 => .instr (.xorReg x y)
  | 0x4#4 => .instr (.addReg x y)
  | 0x5#4 => .instr (.sub x y)
  | 0x6#4 => .instr (.shr x y)
  | 0x7#4 => .instr (.subn x y)
  | 0xE#4 => .instr (.shl x y)
  | _ => .unknownOpcode op

/-- Family 0xE (R100), selected by the low byte. -/
def decodeFamilyE (op : Word) : Decoded :=
  let x := xField op
  match nnField op with
  | 0x9E#8 => .instr (.skp x)
  | 0xA1#8 => .instr (.sknp x)
  | _ => .unknownOpcode op

/-- Family 0xF (R101), selected by the low byte. -/
def decodeFamilyF (op : Word) : Decoded :=
  let x := xField op
  match nnField op with
  | 0x07#8 => .instr (.ldVxDt x)
  | 0x0A#8 => .instr (.ldVxK x)
  | 0x15#8 => .instr (.ldDtVx x)
  | 0x18#8 => .instr (.ldStVx x)
  | 0x1E#8 => .instr (.addI x)
  | 0x29#8 => .instr (.ldF x)
  | 0x33#8 => .instr (.ldB x)
  | 0x55#8 => .instr (.storeRegs x)
  | 0x65#8 => .instr (.loadRegs x)
  | _ => .unknownOpcode op

/-- The decoder of one opcode (R93, R113): dispatch on `op[15:12]`, then on the low nibble or the low byte where
a family holds several instructions. It depends on no state. -/
def decode (op : Word) : Decoded :=
  let x := xField op
  let y := yField op
  let nn := nnField op
  let nnn := nnnField op
  match familyField op with
  | 0x0#4 => decodeFamily0 op
  | 0x1#4 => .instr (.jp nnn)
  | 0x2#4 => .instr (.call nnn)
  | 0x3#4 => .instr (.seImm x nn)
  | 0x4#4 => .instr (.sneImm x nn)
  | 0x5#4 => decodeFamily59 (.seReg x y) op
  | 0x6#4 => .instr (.ldImm x nn)
  | 0x7#4 => .instr (.addImm x nn)
  | 0x8#4 => decodeFamily8 op
  | 0x9#4 => decodeFamily59 (.sneReg x y) op
  | 0xA#4 => .instr (.ldI nnn)
  | 0xB#4 => .instr (.jpV0 nnn)
  | 0xC#4 => .instr (.rnd x nn)
  | 0xD#4 => .instr (.drw x y (nField op).toNat)
  | 0xE#4 => decodeFamilyE op
  | 0xF#4 => decodeFamilyF op
  | _ => .unknownOpcode op

/-- The decoder over a byte string, big-endian (R62, R90): the first instruction and the bytes after it. -/
def decodeBytes : List Byte → Decoded × List Byte
  | hi :: lo :: rest => (decode (bigEndian hi lo), rest)
  | [_] => (.truncated, [])
  | [] => (.truncated, [])

/-- The instruction a decoder's answer holds, if any. -/
def Decoded.instr? : Decoded → Option Instr
  | .instr i => some i
  | .unknownOpcode _ => none
  | .truncated => none

/-! ### Encoder (rule R91, one function per format) -/

/-- The bits of a register field. -/
def regBits (r : Reg) : BitVec 4 := BitVec.ofFin r

/-- Format A: family, nnn. -/
def formatA (family : BitVec 4) (nnn : Addr12) : Word := family ++ nnn

/-- Format I: family, x, nn; format X is the same shape with a fixed function byte. -/
def formatI (family : BitVec 4) (x : Reg) (nn : Byte) : Word := family ++ (regBits x ++ nn : BitVec 12)

/-- Format R: family, x, y, function nibble; format D is the same shape with n for the function. -/
def formatR (family : BitVec 4) (x y : Reg) (fn : BitVec 4) : Word :=
  family ++ (regBits x ++ (regBits y ++ fn : BitVec 8) : BitVec 12)

/-- The word of a well-formed instruction (R114, column match, with its fields put in). -/
def encode : Instr → Word
  | .cls => 0x00E0#16
  | .ret => 0x00EE#16
  | .jp nnn => formatA 0x1#4 nnn
  | .call nnn => formatA 0x2#4 nnn
  | .seImm x nn => formatI 0x3#4 x nn
  | .sneImm x nn => formatI 0x4#4 x nn
  | .seReg x y => formatR 0x5#4 x y 0x0#4
  | .ldImm x nn => formatI 0x6#4 x nn
  | .addImm x nn => formatI 0x7#4 x nn
  | .ldReg x y => formatR 0x8#4 x y 0x0#4
  | .orReg x y => formatR 0x8#4 x y 0x1#4
  | .andReg x y => formatR 0x8#4 x y 0x2#4
  | .xorReg x y => formatR 0x8#4 x y 0x3#4
  | .addReg x y => formatR 0x8#4 x y 0x4#4
  | .sub x y => formatR 0x8#4 x y 0x5#4
  | .shr x y => formatR 0x8#4 x y 0x6#4
  | .subn x y => formatR 0x8#4 x y 0x7#4
  | .shl x y => formatR 0x8#4 x y 0xE#4
  | .sneReg x y => formatR 0x9#4 x y 0x0#4
  | .ldI nnn => formatA 0xA#4 nnn
  | .jpV0 nnn => formatA 0xB#4 nnn
  | .rnd x nn => formatI 0xC#4 x nn
  | .drw x y n => formatR 0xD#4 x y (BitVec.ofNat 4 n)
  | .skp x => formatI 0xE#4 x 0x9E#8
  | .sknp x => formatI 0xE#4 x 0xA1#8
  | .ldVxDt x => formatI 0xF#4 x 0x07#8
  | .ldVxK x => formatI 0xF#4 x 0x0A#8
  | .ldDtVx x => formatI 0xF#4 x 0x15#8
  | .ldStVx x => formatI 0xF#4 x 0x18#8
  | .addI x => formatI 0xF#4 x 0x1E#8
  | .ldF x => formatI 0xF#4 x 0x29#8
  | .ldB x => formatI 0xF#4 x 0x33#8
  | .storeRegs x => formatI 0xF#4 x 0x55#8
  | .loadRegs x => formatI 0xF#4 x 0x65#8

/-- The two bytes of an opcode in memory order, the high byte first (R62, R90). -/
def wordBytes (op : Word) : List Byte := [op.extractLsb' 8 8, op.extractLsb' 0 8]

/-! ### The opcode table (rule R114, columns match and mask) -/

/-- One row of the table: the opcodes `op` with `op &&& mask = pattern` (R93). -/
structure TableRow where
  pattern : Word
  mask : Word
  deriving DecidableEq, Repr

/-- A row of format Z (the whole word is the match). -/
def rowZ (pattern : Word) : TableRow := ⟨pattern, 0xFFFF#16⟩
/-- A row of formats A, I and D (bits 15..12 are the match). -/
def rowFamily (pattern : Word) : TableRow := ⟨pattern, 0xF000#16⟩
/-- A row of format R (bits 15..12 and 3..0 are the match). -/
def rowR (pattern : Word) : TableRow := ⟨pattern, 0xF00F#16⟩
/-- A row of format X (bits 15..12 and 7..0 are the match). -/
def rowX (pattern : Word) : TableRow := ⟨pattern, 0xF0FF#16⟩

/-- The row of the opcode table an instruction stands in. -/
def Instr.row : Instr → TableRow
  | .cls => rowZ 0x00E0#16
  | .ret => rowZ 0x00EE#16
  | .jp _ => rowFamily 0x1000#16
  | .call _ => rowFamily 0x2000#16
  | .seImm _ _ => rowFamily 0x3000#16
  | .sneImm _ _ => rowFamily 0x4000#16
  | .seReg _ _ => rowR 0x5000#16
  | .ldImm _ _ => rowFamily 0x6000#16
  | .addImm _ _ => rowFamily 0x7000#16
  | .ldReg _ _ => rowR 0x8000#16
  | .orReg _ _ => rowR 0x8001#16
  | .andReg _ _ => rowR 0x8002#16
  | .xorReg _ _ => rowR 0x8003#16
  | .addReg _ _ => rowR 0x8004#16
  | .sub _ _ => rowR 0x8005#16
  | .shr _ _ => rowR 0x8006#16
  | .subn _ _ => rowR 0x8007#16
  | .shl _ _ => rowR 0x800E#16
  | .sneReg _ _ => rowR 0x9000#16
  | .ldI _ => rowFamily 0xA000#16
  | .jpV0 _ => rowFamily 0xB000#16
  | .rnd _ _ => rowFamily 0xC000#16
  | .drw _ _ _ => rowFamily 0xD000#16
  | .skp _ => rowX 0xE09E#16
  | .sknp _ => rowX 0xE0A1#16
  | .ldVxDt _ => rowX 0xF007#16
  | .ldVxK _ => rowX 0xF00A#16
  | .ldDtVx _ => rowX 0xF015#16
  | .ldStVx _ => rowX 0xF018#16
  | .addI _ => rowX 0xF01E#16
  | .ldF _ => rowX 0xF029#16
  | .ldB _ => rowX 0xF033#16
  | .storeRegs _ => rowX 0xF055#16
  | .loadRegs _ => rowX 0xF065#16

/-- The 34 rows, in the table's order (R114). -/
def opcodeTable : List TableRow :=
  [rowZ 0x00E0#16, rowZ 0x00EE#16, rowFamily 0x1000#16, rowFamily 0x2000#16, rowFamily 0x3000#16,
   rowFamily 0x4000#16, rowR 0x5000#16, rowFamily 0x6000#16, rowFamily 0x7000#16]
  ++ [rowR 0x8000#16, rowR 0x8001#16, rowR 0x8002#16, rowR 0x8003#16, rowR 0x8004#16, rowR 0x8005#16,
      rowR 0x8006#16, rowR 0x8007#16, rowR 0x800E#16, rowR 0x9000#16]
  ++ [rowFamily 0xA000#16, rowFamily 0xB000#16, rowFamily 0xC000#16, rowFamily 0xD000#16]
  ++ [rowX 0xE09E#16, rowX 0xE0A1#16, rowX 0xF007#16, rowX 0xF00A#16, rowX 0xF015#16, rowX 0xF018#16]
  ++ [rowX 0xF01E#16, rowX 0xF029#16, rowX 0xF033#16, rowX 0xF055#16, rowX 0xF065#16]

/-- The opcodes a row matches (R93). -/
def TableRow.selects (r : TableRow) (op : Word) : Bool := op &&& r.mask == r.pattern

/-! ### The host's reading of a table word -/

/-- The bytes, as the hardware stores them, of the instruction whose bits the host numbers as the table does: one
16-bit word, big-endian; bits from `nbits` up are 0. -/
def tableWordBytes (nbits w : Nat) : List Byte := wordBytes (BitVec.ofNat 16 (w % 2 ^ nbits))

/-- The instruction the decoder reads from those bytes. -/
def decodeTableWord (nbits w : Nat) : Option Instr := (decodeBytes (tableWordBytes nbits w)).1.instr?

end Sys2Proof
end

