-- ==== Sys2Proof/Machine/Operands.lean ====
section
/-! DEFINITION. The operand forms (rule R92 and 43_index_memory.md): the address operand nnn, the data block at I,
the key index in a register. Register operands are `State.getV` and `State.setV`. -/

namespace Sys2Proof.Machine

/-- nnn as an address, zero-extended to the 16 bits of pc or I (R92). -/
def nnnAddress (nnn : Addr12) : Word := nnn.setWidth 16

/-- The effective address of the k-th byte of a data access: `I + k` (R75), no wrap-around. -/
def State.dataAddress (s : State) (k : Nat) : Nat := s.I.toNat + k

/-- The range check of a block of `count` bytes at I, made before any effect (R64): all of I .. I+count-1 lie in
0x000..0xFFF; an empty block (Dxy0) is never out of range (R212). -/
def State.blockFits (s : State) (count : Nat) : Bool := decide (count = 0 ∨ s.dataAddress (count - 1) ≤ 0xFFF)

/-- A data access of `count` bytes at I: where the block leaves memory, `raise OutOfRangeAddress(0x1000)` (R64, R264). -/
def withBlock (s : State) (count : Nat) (body : Result) : Result :=
  if s.blockFits count then body else raise s .outOfRangeAddress 0x1000#16

/-- The key index `V[x]` (R227): a value above 0xF names no key. -/
def keyIndex? (b : Byte) : Option (Fin 16) := if h : b.toNat < 16 then some ⟨b.toNat, h⟩ else none

/-- The least k with `key[k] = 1`, if any key is down (R231). -/
def lowestKey? (key : Vector Bool 16) : Option (Fin 16) := (List.finRange 16).find? fun k => key.get k

end Sys2Proof.Machine
end

