-- ==== Sys2Proof/Machine/Control.lean ====
section
/-! DEFINITION. Control transfer (41_flow_control.md). -/

namespace Sys2Proof.Machine

/-- 00EE RET (R140): the slot holds the call's own address; the +2 is applied here. -/
def execRet (s : State) : Result :=
  if h : 0 < s.sp.val then commit s (s.pop h) ((s.top h).toNat + 2)
  else raise s .stackUnderflow (encode .ret)

/-- 1nnn JP nnn (R141): always in range. -/
def execJp (nnn : Addr12) (s : State) : Result := commit s s (nnnAddress nnn).toNat

/-- 2nnn CALL nnn (R142): pushes the address of the call itself. -/
def execCall (nnn : Addr12) (s : State) : Result :=
  if h : s.sp.val < 16 then commit s (s.push h s.pc) (nnnAddress nnn).toNat
  else raise s .stackOverflow (encode (.call nnn))

/-- Bnnn JP V0, nnn (R143): the sum is not reduced; above 0xFFF it faults. -/
def execJpV0 (nnn : Addr12) (s : State) : Result := commit s s ((nnnAddress nnn).toNat + (s.getV 0).toNat)

/-- 3xnn SE Vx, nn (R144). -/
def execSeImm (x : Reg) (nn : Byte) (s : State) : Result := skipIf (s.getV x == nn) s

/-- 4xnn SNE Vx, nn (R145). -/
def execSneImm (x : Reg) (nn : Byte) (s : State) : Result := skipIf (s.getV x != nn) s

/-- 5xy0 SE Vx, Vy (R146). -/
def execSeReg (x y : Reg) (s : State) : Result := skipIf (s.getV x == s.getV y) s

/-- 9xy0 SNE Vx, Vy (R147). -/
def execSneReg (x y : Reg) (s : State) : Result := skipIf (s.getV x != s.getV y) s

end Sys2Proof.Machine
end

