-- ==== Sys2Proof/Machine/Display.lean ====
section
/-! DEFINITION. Display instructions and the sprite blitter (44_display.md). -/

namespace Sys2Proof.Machine

/-- The framebuffer with every pixel 0. -/
def Framebuffer.blank : Framebuffer := Vector.replicate 32 (Vector.replicate 64 false)

/-- `fb[r][c]` (R211). -/
def Framebuffer.pixel (fb : Framebuffer) (c : Fin 64) (r : Fin 32) : Bool := (fb.get r).get c

/-- `fb[r][c] <- fb[r][c] ^ 1`. -/
def Framebuffer.toggle (fb : Framebuffer) (c : Fin 64) (r : Fin 32) : Framebuffer :=
  fb.set r.val ((fb.get r).set c.val (!(Framebuffer.pixel fb c r)) c.isLt) r.isLt

/-- The framebuffer and the collision flag while a sprite is drawn. -/
structure Drawing where
  fb : Framebuffer
  collision : Bool
  deriving DecidableEq, Repr

/-- The column of sprite bit b (R212): toroidal. -/
def spriteColumn (vx b : Nat) : Fin 64 := Fin.ofNat 64 (vx + b)

/-- The row of sprite row i (R212): toroidal. -/
def spriteRow (vy i : Nat) : Fin 32 := Fin.ofNat 32 (vy + i)

/-- The body of the inner loop (R212): bit b of the row byte, most significant first, is bit 7-b (R211). -/
def drawBit (vx vy i : Nat) (row : Byte) (d : Drawing) (b : Nat) : Drawing :=
  if row.getLsbD (7 - b) then
    let c := spriteColumn vx b
    let r := spriteRow vy i
    ⟨Framebuffer.toggle d.fb c r, d.collision || Framebuffer.pixel d.fb c r⟩
  else d

/-- The inner loop over b in 0..7. -/
def drawRow (vx vy i : Nat) (row : Byte) (d : Drawing) : Drawing := (List.range 8).foldl (drawBit vx vy i row) d

/-- The outer loop over i in 0..n-1; row i of the sprite is `mem[I + i]`. The flag starts at 0. -/
def drawSprite (s : State) (vx vy n : Nat) : Drawing :=
  (List.range n).foldl (fun d i => drawRow vx vy i (s.memByte (s.dataAddress i)) d) ⟨s.fb, false⟩

/-- 00E0 CLS (R210): sets `frame_dirty` always. -/
def execCls (s : State) : Result := advance 2 s (s.show Framebuffer.blank)

/-- Dxyn DRW Vx, Vy, n (R212): the origin is read before VF is written; VF is always written. -/
def execDrw (x y : Reg) (n : Nat) (s : State) : Result :=
  let d := drawSprite s (s.getV x).toNat (s.getV y).toNat n
  withBlock s n (advance 2 s ((s.setFlag d.collision).show d.fb))

end Sys2Proof.Machine
end

