-- ==== Sys2Proof/Machine/IndexMemory.lean ====
section
/-! DEFINITION. Index register and memory instructions (43_index_memory.md). -/

namespace Sys2Proof.Machine

/-- Annn LD I, nnn (R190). -/
def execLdI (nnn : Addr12) (s : State) : Result := advance 2 s (s.setI (nnnAddress nnn))

/-- Fx1E ADD I, Vx (R191): modulo 4096, no flag. -/
def execAddI (x : Reg) (s : State) : Result :=
  advance 2 s (s.setI (BitVec.ofNat 16 ((s.I.toNat + (s.getV x).toNat) % 4096)))

/-- Fx29 LD F, Vx (R192): `Vx * 5` over the whole byte, no mask; the font base is 0. -/
def execLdF (x : Reg) (s : State) : Result := advance 2 s (s.setI (BitVec.ofNat 16 ((s.getV x).toNat * 5)))

/-- The three decimal digits of a byte, hundreds first (R193). -/
def decimalDigits (b : Byte) : List Byte :=
  [BitVec.ofNat 8 (b.toNat / 100), BitVec.ofNat 8 (b.toNat / 10 % 10), BitVec.ofNat 8 (b.toNat % 10)]

/-- `bytes` stored at I, I+1, ... after the range check of the whole block, then `advance(2)` (R64, R193, R194). -/
def storeBlock (s : State) (bytes : List Byte) : Result :=
  withBlock s bytes.length (advance 2 s (s.storeBytes (s.dataAddress 0) bytes))

/-- Fx33 LD B, Vx (R193). -/
def execLdB (x : Reg) (s : State) : Result := storeBlock s (decimalDigits (s.getV x))

/-- Fx55 LD [I], Vx (R194): I is unchanged. -/
def execStoreRegs (x : Reg) (s : State) : Result := storeBlock s (s.regsTo x)

/-- Fx65 LD Vx, [I] (R195): I and the registers above Vx are unchanged. -/
def execLoadRegs (x : Reg) (s : State) : Result :=
  withBlock s (x.val + 1) (advance 2 s (s.loadRegsFrom x (s.dataAddress 0)))

end Sys2Proof.Machine
end

