-- ==== Sys2Proof/Machine/Keys.lean ====
section
/-! DEFINITION. Key skips and the key-wait state machine (45_keys.md). -/

namespace Sys2Proof.Machine

/-- The common part of Ex9E and ExA1: skip if key `V[x]` is in the state `down`; a value above 0xF raises
KeyIndexOutOfRange (R227, R228, R269). -/
def skipOnKey (x : Reg) (down : Bool) (s : State) : Result :=
  match keyIndex? (s.getV x) with
  | some k => skipIf (s.key.get k == down) s
  | none => raise s .keyIndexOutOfRange ((s.getV x).setWidth 16)

/-- Ex9E SKP Vx (R227). -/
def execSkp (x : Reg) (s : State) : Result := skipOnKey x true s

/-- ExA1 SKNP Vx (R228). -/
def execSknp (x : Reg) (s : State) : Result := skipOnKey x false s

/-- Fx0A LD Vx, K, the step that fetches it (R230): only `run` changes; the latch is not read. -/
def execLdVxK (x : Reg) (s : State) : Result := .next (s.setRun (.awaitingKey x))

/-- The key-wait poll (R231): no key down, no change; else the lowest key goes to Vt, pc advances by 2 and the engine
runs again. -/
def pollKey (t : Reg) (s : State) : Result :=
  match lowestKey? s.key with
  | none => .next s
  | some k => advance 2 s ((s.setV t (BitVec.ofNat 8 k.val)).setRun .running)

end Sys2Proof.Machine
end

