-- ==== Sys2Proof/Machine/Timers.lean ====
section
/-! DEFINITION. Timer instructions (46_timers.md). `tick()` is in Machine/Environment.lean. -/

namespace Sys2Proof.Machine

/-- Fx07 LD Vx, DT (R240). -/
def execLdVxDt (x : Reg) (s : State) : Result := advance 2 s (s.setV x s.DT)

/-- Fx15 LD DT, Vx (R241). -/
def execLdDtVx (x : Reg) (s : State) : Result := advance 2 s (s.setDT (s.getV x))

/-- Fx18 LD ST, Vx (R242): never emits a beep. -/
def execLdStVx (x : Reg) (s : State) : Result := advance 2 s (s.setST (s.getV x))

end Sys2Proof.Machine
end

