-- ==== Sys2Proof/Machine/Cycle.lean ====
section
/-! DEFINITION. The step cycle (40_step_cycle.md): fetch, decode, execute, and what `step()` does in each run state.
Step.lean only calls it. -/

namespace Sys2Proof.Machine

/-- The opcode at pc, big-endian, or nothing where the low byte would come from above 0xFFF (R121). -/
def fetch? (s : State) : Option Word :=
  if s.pc.toNat + 1 > 0xFFF then none else some (s.memWord s.pc.toNat)

/-- Decode and execute (R122, R123): a word that is no instruction raises UnknownOpcode with the word as info. -/
def runOpcode (op : Word) (s : State) : Result :=
  match decode op with
  | .instr i => exec i s
  | .unknownOpcode _ => raise s .unknownOpcode op
  | .truncated => raise s .unknownOpcode op

/-- `step()` in Running (R121 to R123). -/
def stepRunning (s : State) : Result :=
  match fetch? s with
  | none => raise s .outOfRangeAddress 0x1000#16
  | some op => runOpcode op s

/-- `step()` by run state (R120): one instruction, one key-wait poll (R231), or nothing (R130). -/
def cycle (s : State) : Result :=
  match s.run with
  | .running => stepRunning s
  | .awaitingKey t => pollKey t s
  | .faulted _ _ _ => .next s

/-- The two bytes of a table word stored at pc and pc+1, the engine running: what the host calls placing an instruction
where the next step fetches it (log 9). Where pc is 0xFFF or more nothing can be fetched, and nothing is stored. -/
def placeAtPc (s : State) (bytes : List Byte) : State :=
  if s.pc.toNat + 1 > 0xFFF then s
  else (s.storeBytes s.pc.toNat bytes).setRun .running

end Sys2Proof.Machine
end

