-- ==== Sys2Proof/Machine/Step.lean ====
section
/-! DEFINITION. The step function of the machine: one `step()` operation (rule R120). The other five operations of
rule R12 are the environment's, in Machine/Environment.lean. -/

namespace Sys2Proof.Machine

/-- One `step()`. -/
def step : State → Host.Outcome State Fault Refusal := fun s => cycle s

/-- `s` with the instruction whose bits are `w` (numbered as spec/opcode_table.json numbers them) stored big-endian at
pc and pc+1, and `run` Running, since no other run state fetches (log 9). -/
def State.withFetchWord (s : State) (nbits w : Nat) : State := placeAtPc s (tableWordBytes nbits w)

end Sys2Proof.Machine
end

