-- ==== Sys2Proof/Machine/Environment.lean ====
section
/-! DEFINITION. The operations of the environment (rule R12): `reset()`, `loadGame(bytes)`, `tick()`, `setKey(k, pressed)`
and `snapshot()`, their output events, and a run of operations in the order the environment chooses (rule R70). -/

namespace Sys2Proof.Machine

/-- What the environment observes of an operation (R12): the beep of a `tick()` (R247), the copy a `snapshot()`
returns (R218). -/
inductive Event where
  | beep
  | frame (fb : Framebuffer)
  deriving DecidableEq, Repr

/-- The six operations (R12). -/
inductive Operation where
  | reset
  | loadGame (bytes : List Byte)
  | step
  | tick
  | setKey (k : Fin 16) (pressed : Bool)
  | snapshot
  deriving DecidableEq, Repr

/-- `run` is Faulted. -/
def State.isFaulted (s : State) : Bool :=
  match s.run with
  | .running => false
  | .awaitingKey _ => false
  | .faulted _ _ _ => true

/-- `loadGame(bytes)` (R291): a verbatim copy from 0x200 on; longer than 3584 bytes it writes nothing and faults, unless
`run` is Faulted already (R292). -/
def State.loadGame (s : State) (bytes : List Byte) : State :=
  if bytes.length ≤ 3584 then s.storeBytes 0x200 bytes
  else if s.isFaulted then s
  else s.enterFault .outOfRangeAddress 0x1000#16

/-- One decrement of a timer, stopping at 0 (R30, R31, R244). -/
def countDown (b : Byte) : Byte := if b = 0#8 then 0#8 else b - 1#8

/-- `tick()` (R244): both timers count down, in Running and in AwaitingKey alike (R248); in Faulted nothing (R249). -/
def State.tick (s : State) : State :=
  if s.isFaulted then s else (s.setDT (countDown s.DT)).setST (countDown s.ST)

/-- `tick()` emits the beep: ST is exactly 1 before the decrement (R244, R246). -/
def State.tickBeeps (s : State) : Bool := !s.isFaulted && s.ST == 1#8

/-- `setKey(k, pressed)` (R226), in any run state. -/
def State.setKey (s : State) (k : Fin 16) (pressed : Bool) : State := { s with key := s.key.set k.val pressed k.isLt }

/-- `snapshot()` clears `frame_dirty` and nothing else (R218); the copy is in its event. -/
def State.acknowledgeFrame (s : State) : State := { s with frameDirty := false }

/-- One operation: the state after it and the events it emits. -/
def operate (op : Operation) (s : State) : Host.Outcome (State × List Event) Fault Refusal :=
  match op with
  | .reset => .next (s.leaveByReset, [])
  | .loadGame bytes => .next (s.loadGame bytes, [])
  | .step =>
    match Sys2Proof.Machine.step s with
    | .next t => .next (t, [])
    | .fault r => .fault r
    | .refused r => .refused r
  | .tick => .next (s.tick, if s.tickBeeps then [.beep] else [])
  | .setKey k pressed => .next (s.setKey k pressed, [])
  | .snapshot => .next (s.acknowledgeFrame, [.frame s.fb])

/-- The operations one after another, and all the events in order (R70). -/
def operateAll : List Operation → State → Host.Outcome (State × List Event) Fault Refusal
  | [], s => .next (s, [])
  | op :: ops, s =>
    match operate op s with
    | .next (t, es) =>
      match operateAll ops t with
      | .next (u, es') => .next (u, es ++ es')
      | .fault r => .fault r
      | .refused r => .refused r
    | .fault r => .fault r
    | .refused r => .refused r

end Sys2Proof.Machine
end

