-- ==== Sys2Proof/Safety.lean ====
section
/-! DEFINITION. The terms in which claims are made: the invariant of the machine, the fault an instruction raises as the
rules list it, who may write what, what a run of operations avoids, and the shapes of completion and of frame. -/

namespace Sys2Proof.Machine

/-! ### Invariant -/

/-- What the `info` of a fault record holds, by cause (R260, R265). -/
def faultInfoOk (c : Cause) (info : Word) : Prop :=
  match c with
  | .unknownOpcode => decode info = .unknownOpcode info
  | .stackOverflow => 0x2000 ≤ info.toNat ∧ info.toNat ≤ 0x2FFF
  | .stackUnderflow => info = 0x00EE#16
  | .outOfRangeAddress => 0x1000 ≤ info.toNat ∧ info.toNat ≤ 0x10FE
  | .keyIndexOutOfRange => 0x0010 ≤ info.toNat ∧ info.toNat ≤ 0x00FF

/-- The invariant of every reachable state (R44, R27, R28, R37, R265, C14) and the canonical form of the memory list.
`sp <= 16` holds by the type of `sp`. -/
structure State.Inv (s : State) : Prop where
  mem_wf : s.memWf = true
  I_le : s.I.toNat ≤ 0xFFF
  pc_le : s.pc.toNat ≤ 0xFFF
  slot_le : ∀ j : Fin 16, (s.slot j).toNat ≤ 0xFFE
  awaiting_pc : ∀ t, s.run = .awaitingKey t → s.pc.toNat ≤ 0xFFE
  record_pc : ∀ c p info, s.run = .faulted c p info → p = s.pc
  record_info : ∀ c p info, s.run = .faulted c p info → faultInfoOk c info

/-! ### The fault an instruction raises, as the rules list it (R127, R260 to R264, R269) -/

/-- The instruction's own operand check, step (3) of rule R127. -/
def operandFault? (i : Instr) (s : State) : Option (Cause × Word) :=
  match i with
  | .call nnn => if s.sp.val = 16 then some (.stackOverflow, BitVec.ofNat 16 (0x2000 + nnn.toNat)) else none
  | .ret => if s.sp.val = 0 then some (.stackUnderflow, 0x00EE#16) else none
  | .skp x | .sknp x =>
    if (s.getV x).toNat > 0xF then some (.keyIndexOutOfRange, BitVec.ofNat 16 (s.getV x).toNat) else none
  | .drw _ _ n => if n > 0 ∧ s.I.toNat + n - 1 > 0xFFF then some (.outOfRangeAddress, 0x1000#16) else none
  | .ldB _ => if s.I.toNat + 2 > 0xFFF then some (.outOfRangeAddress, 0x1000#16) else none
  | .storeRegs x | .loadRegs x =>
    if s.I.toNat + x.val > 0xFFF then some (.outOfRangeAddress, 0x1000#16) else none
  | .cls | .jp _ | .seImm _ _ | .sneImm _ _ | .seReg _ _ | .ldImm _ _ | .addImm _ _ | .ldReg _ _ | .orReg _ _
  | .andReg _ _ | .xorReg _ _ | .addReg _ _ | .sub _ _ | .shr _ _ | .subn _ _ | .shl _ _ | .sneReg _ _ | .ldI _
  | .jpV0 _ | .rnd _ _ | .ldVxDt _ | .ldVxK _ | .ldDtVx _ | .ldStVx _ | .addI _ | .ldF _ => none

/-- 4 where a skip condition holds, else 2 (R124 (b)). -/
def skipDistance (cond : Bool) : Nat := if cond then 4 else 2

/-- The key a register names is down (R227, R228), for a register that names one. -/
def State.keyDown (s : State) (x : Reg) : Bool := s.key.toList.getD (s.getV x).toNat false

/-- The value the instruction would write to pc, by the three classes of rule R124 (and R25); Fx0A writes none (R230). -/
def pcTarget? (i : Instr) (s : State) : Option Nat :=
  match i with
  | .jp nnn | .call nnn => some nnn.toNat
  | .jpV0 nnn => some (nnn.toNat + (s.getV 0).toNat)
  | .ret => some ((s.stack.toList.getD (s.sp.val - 1) 0#16).toNat + 2)
  | .seImm x nn => some (s.pc.toNat + skipDistance (s.getV x == nn))
  | .sneImm x nn => some (s.pc.toNat + skipDistance (s.getV x != nn))
  | .seReg x y => some (s.pc.toNat + skipDistance (s.getV x == s.getV y))
  | .sneReg x y => some (s.pc.toNat + skipDistance (s.getV x != s.getV y))
  | .skp x => some (s.pc.toNat + skipDistance (s.keyDown x))
  | .sknp x => some (s.pc.toNat + skipDistance (!s.keyDown x))
  | .ldVxK _ => none
  | .cls | .ldImm _ _ | .addImm _ _ | .ldReg _ _ | .orReg _ _ | .andReg _ _ | .xorReg _ _ | .addReg _ _ | .sub _ _
  | .shr _ _ | .subn _ _ | .shl _ _ | .ldI _ | .rnd _ _ | .drw _ _ _ | .ldVxDt _ | .ldDtVx _ | .ldStVx _ | .addI _
  | .ldF _ | .ldB _ | .storeRegs _ | .loadRegs _ => some (s.pc.toNat + 2)

/-- The first fault of the instruction in the order of rule R127: its operand check, then the write of pc. -/
def instructionFault? (i : Instr) (s : State) : Option (Cause × Word) :=
  match operandFault? i s with
  | some f => some f
  | none =>
    match pcTarget? i s with
    | some t => if t > 0xFFF then some (.outOfRangeAddress, BitVec.ofNat 16 t) else none
    | none => none

/-- The run state a completed instruction leaves: only Fx0A changes it (R123, R230). -/
def runAfter (i : Instr) (s : State) : Run :=
  match i with
  | .ldVxK x => .awaitingKey x
  | .cls | .ret | .jp _ | .call _ | .seImm _ _ | .sneImm _ _ | .seReg _ _ | .ldImm _ _ | .addImm _ _ | .ldReg _ _
  | .orReg _ _ | .andReg _ _ | .xorReg _ _ | .addReg _ _ | .sub _ _ | .shr _ _ | .subn _ _ | .shl _ _ | .sneReg _ _
  | .ldI _ | .jpV0 _ | .rnd _ _ | .drw _ _ _ | .skp _ | .sknp _ | .ldVxDt _ | .ldDtVx _ | .ldStVx _ | .addI _
  | .ldF _ | .ldB _ | .storeRegs _ | .loadRegs _ => s.run

end Sys2Proof.Machine

namespace Sys2Proof

/-! ### Who may write what (the columns "written by" of rule R20) -/

/-- The instructions that write VF as a flag (R22). -/
def Instr.writesFlag (i : Instr) : Bool :=
  match i with
  | .addReg _ _ | .sub _ _ | .shr _ _ | .subn _ _ | .shl _ _ | .drw _ _ _ => true
  | .cls | .ret | .jp _ | .call _ | .seImm _ _ | .sneImm _ _ | .seReg _ _ | .ldImm _ _ | .addImm _ _ | .ldReg _ _
  | .orReg _ _ | .andReg _ _ | .xorReg _ _ | .sneReg _ _ | .ldI _ | .jpV0 _ | .rnd _ _ | .skp _ | .sknp _ | .ldVxDt _
  | .ldVxK _ | .ldDtVx _ | .ldStVx _ | .addI _ | .ldF _ | .ldB _ | .storeRegs _ | .loadRegs _ => false

/-- The instruction has register r among its destinations, by its x field (R20, row V; for Fx65 all of V0..Vx, R195).
The step that fetches Fx0A writes no register (R230): its target is written by the poll. -/
def Instr.hasDestination (i : Instr) (r : Reg) : Bool :=
  match i with
  | .ldImm x _ | .addImm x _ | .rnd x _ | .ldVxDt x => r == x
  | .ldReg x _ | .orReg x _ | .andReg x _ | .xorReg x _ | .addReg x _ | .sub x _ | .shr x _ | .subn x _ | .shl x _ => r == x
  | .loadRegs x => decide (r.val ≤ x.val)
  | .cls | .ret | .jp _ | .call _ | .seImm _ _ | .sneImm _ _ | .seReg _ _ | .sneReg _ _ | .ldI _ | .jpV0 _ | .drw _ _ _
  | .skp _ | .sknp _ | .ldVxK _ | .ldDtVx _ | .ldStVx _ | .addI _ | .ldF _ | .ldB _ | .storeRegs _ => false

/-- How many bytes the instruction stores, from address `s.dataAddress 0` on (R63, R75): Fx33 three, Fx55 x+1. -/
def Instr.storedBytes (i : Instr) : Nat :=
  match i with
  | .ldB _ => 3
  | .storeRegs x => x.val + 1
  | .cls | .ret | .jp _ | .call _ | .seImm _ _ | .sneImm _ _ | .seReg _ _ | .ldImm _ _ | .addImm _ _ | .ldReg _ _
  | .orReg _ _ | .andReg _ _ | .xorReg _ _ | .addReg _ _ | .sub _ _ | .shr _ _ | .subn _ _ | .shl _ _ | .sneReg _ _
  | .ldI _ | .jpV0 _ | .rnd _ _ | .drw _ _ _ | .skp _ | .sknp _ | .ldVxDt _ | .ldVxK _ | .ldDtVx _ | .ldStVx _
  | .addI _ | .ldF _ | .loadRegs _ => 0

end Sys2Proof

namespace Sys2Proof.Machine

/-! ### Runs of operations -/

/-- The instruction the next `step()` would execute: the engine is Running, the fetch is in range and the word decodes. -/
def State.nextInstr? (s : State) : Option Instr :=
  match s.run with
  | .running => (fetch? s).bind fun op => (decode op).instr?
  | .awaitingKey _ => none
  | .faulted _ _ _ => none

/-- Along the run, from s, there is no `reset()` and no `step()` executes an instruction of `bad`. -/
def runAvoids (bad : Instr → Bool) : List Operation → State → Bool
  | [], _ => true
  | op :: ops, s =>
    (match op with
      | .reset => false
      | .step => !(s.nextInstr?.any bad)
      | .loadGame _ => true
      | .tick => true
      | .setKey _ _ => true
      | .snapshot => true)
    && (match operate op s with
      | .next (t, _) => runAvoids bad ops t
      | .fault _ => true
      | .refused _ => true)

/-- Along the run, from s on, at least `depth` stack slots are in use in every state passed, the last one included. -/
def runKeepsDepth (depth : Nat) : List Operation → State → Bool
  | [], s => decide (depth ≤ s.sp.val)
  | op :: ops, s =>
    decide (depth ≤ s.sp.val)
    && (match operate op s with
      | .next (t, _) => runKeepsDepth depth ops t
      | .fault _ => true
      | .refused _ => true)

/-- How many `tick()` a list of operations holds. -/
def tickCount (ops : List Operation) : Nat := ops.count .tick

/-- How many beeps a list of events holds. -/
def beepCount (es : List Event) : Nat := es.count .beep

/-! ### Shapes of completion: the instruction answers a next state, which differs from s at most in the items named -/

/-- i faults at s with this cause and info: only `run` changes, to the record with the pc of s (R266). -/
def faultsWith (i : Instr) (s : State) (c : Cause) (info : Word) : Prop :=
  exec i s = .next { s with run := .faulted c s.pc info }

/-- Where `advance(k)` would leave 0x000..0xFFF, i faults with the address it would have put in pc (R125). -/
def faultsPastTheTop (i : Instr) (s : State) (k : Nat) : Prop :=
  s.pc.toNat + k > 0xFFF → faultsWith i s .outOfRangeAddress (BitVec.ofNat 16 (s.pc.toNat + k))

/-- i, which ends by `advance(2)`, completes at s where that stays in range: pc becomes pc + 2, Vx becomes `value`, every
other register and every other item of the state is unchanged. -/
def completesWithReg (i : Instr) (s : State) (x : Reg) (value : Nat) : Prop :=
  (s.pc.toNat + 2 ≤ 0xFFF → ∃ t, exec i s = .next t ∧ t = { s with V := t.V, pc := t.pc } ∧ t.pc.toNat = s.pc.toNat + 2 ∧
    (t.getV x).toNat = value ∧ ∀ r, r ≠ x → t.getV r = s.getV r) ∧
  faultsPastTheTop i s 2

/-- i, which ends by `advance(2)`, completes at s where that stays in range: pc becomes pc + 2, Vx becomes `value` and VF
becomes `flag`; every other register and every other item of the state is unchanged. -/
def completesWithRegAndFlag (i : Instr) (s : State) (x : Reg) (value flag : Nat) : Prop :=
  (s.pc.toNat + 2 ≤ 0xFFF → ∃ t, exec i s = .next t ∧ t = { s with V := t.V, pc := t.pc } ∧ t.pc.toNat = s.pc.toNat + 2 ∧
    (t.getV x).toNat = value ∧ (t.getV Reg.F).toNat = flag ∧ ∀ r, r ≠ x → r ≠ Reg.F → t.getV r = s.getV r) ∧
  faultsPastTheTop i s 2

/-- i, which ends by `advance(2)`, completes at s where that stays in range: I becomes `value`, pc becomes pc + 2, every
other item of the state is unchanged. -/
def completesWithIndex (i : Instr) (s : State) (value : Nat) : Prop :=
  (s.pc.toNat + 2 ≤ 0xFFF → ∃ t, exec i s = .next t ∧ t = { s with I := t.I, pc := t.pc } ∧ t.pc.toNat = s.pc.toNat + 2 ∧
    t.I.toNat = value) ∧
  faultsPastTheTop i s 2

/-- i is a conditional skip at s: it adds 4 to pc where `cond` holds and 2 where it does not, as long as the sum stays in
0x000..0xFFF, and changes nothing else; past the top it faults. -/
def skipsExactlyWhen (i : Instr) (s : State) (cond : Prop) : Prop :=
  (cond → (s.pc.toNat + 4 ≤ 0xFFF → exec i s = .next { s with pc := BitVec.ofNat 16 (s.pc.toNat + 4) }) ∧
    faultsPastTheTop i s 4) ∧
  (¬cond → (s.pc.toNat + 2 ≤ 0xFFF → exec i s = .next { s with pc := BitVec.ofNat 16 (s.pc.toNat + 2) }) ∧
    faultsPastTheTop i s 2)

/-- 1 where p holds, else 0: a flag as a number. -/
def bit (p : Prop) [Decidable p] : Nat := if p then 1 else 0

/-- The sprite bit that falls on pixel (c, r) when n rows from I on are drawn at origin (vx, vy): some row i < n and some
column offset b < 8 land there, and bit 7-b of `mem[I + i]` is 1 (R211, R213). -/
def spriteCovers (s : State) (vx vy n : Nat) (c : Fin 64) (r : Fin 32) : Prop :=
  ∃ i b, i < n ∧ b < 8 ∧ c.val = (vx + b) % 64 ∧ r.val = (vy + i) % 32 ∧
    (s.memByte (s.I.toNat + i)).getLsbD (7 - b) = true

end Sys2Proof.Machine
end

