-- ==== Sys2Proof/Certificates/Slice0/Obligations.lean ====
section
/-! DEFINITION. The statements for the provers. Each docstring names the rules of spec/ it formalises. A premise `s.memWf` is the canonical form of the memory list, which every reachable state has (`ResetMeetsTheInvariant`,
`EveryOperationKeepsTheInvariant`). The rules' "Faults: only from `advance`" is `faultsPastTheTop`: that an `advance` past 0xFFF
faults in place of completing, with nothing written, is the spec's decisions D1 and D2 (log 13), and the record's form
is D5 (log 25). A statement with such a clause is therefore listed as derived, though its effect is the cited rule's own. -/

open Sys2Proof Sys2Proof.Machine

/-! ### Encoding -/

/-- Words written out from the formats of rule R91 decode to the instructions they stand for, the y field of the
shifts included, and words outside the table are rejected (R110 to R112; the words of 95_test_vectors.md section 2.8).
-/
def Obligations.SpecWordsDecode : Prop :=
  decode 0x00E0#16 = .instr .cls ∧ decode 0x00EE#16 = .instr .ret ∧ decode 0x1234#16 = .instr (.jp 0x234#12) ∧
  decode 0x332A#16 = .instr (.seImm 3 0x2A#8) ∧ decode 0x9120#16 = .instr (.sneReg 1 2) ∧
  decode 0x8AF6#16 = .instr (.shr 0xA 0xF) ∧ decode 0xA2F0#16 = .instr (.ldI 0x2F0#12) ∧
  decode 0xD12F#16 = .instr (.drw 1 2 15) ∧ decode 0xE29E#16 = .instr (.skp 2) ∧
  decode 0xFF65#16 = .instr (.loadRegs 0xF) ∧ decode 0x0000#16 = .unknownOpcode 0x0000#16 ∧
  decode 0x01E0#16 = .unknownOpcode 0x01E0#16 ∧ decode 0x5121#16 = .unknownOpcode 0x5121#16 ∧
  decode 0x8128#16 = .unknownOpcode 0x8128#16 ∧ decode 0xF10B#16 = .unknownOpcode 0xF10B#16

/-- No bit of an encoding is dropped: every well-formed instruction, with every value of its operands, decodes back to
itself (R91, R92, R114). -/
def Obligations.EncodedInstructionDecodesToItself : Prop :=
  ∀ i : Instr, i.wellFormed = true → decode (encode i) = .instr i

/-- Every instruction word has exactly one meaning and every meaning one word: what the decoder gives is well-formed
and encodes to the word it was read from (R110: no alias; R113). -/
def Obligations.DecodedWordEncodesBack : Prop :=
  ∀ (op : Word) (i : Instr), decode op = .instr i → encode i = op ∧ i.wellFormed = true

/-- R93 and R113: a word that a row of the opcode table selects decodes to that row's instruction; a word that decodes
is selected by exactly one row, its instruction's, so no two rows overlap; a word that no row selects is
UnknownOpcode; there is no third answer. -/
def Obligations.OpcodeTableSelectsDecodedInstruction : Prop :=
  (∀ op : Word, ∀ r ∈ opcodeTable, r.selects op = true → ∃ i, decode op = .instr i ∧ i.row = r) ∧
  (∀ (op : Word) (i : Instr), decode op = .instr i → opcodeTable.filter (fun r => r.selects op) = [i.row]) ∧
  (∀ op : Word, (∀ r ∈ opcodeTable, r.selects op = false) → decode op = .unknownOpcode op) ∧
  (∀ op : Word, decode op = .unknownOpcode op ∨ ∃ i, decode op = .instr i)

/-- R94 to R101, family by family, with the fields read off the opcode as a number (R9): which words are instructions,
which instruction, with which operands, and which words are not. (Of R98 all but that 8xy6 and 8xyE do not use y,
which `SubtractAndShiftTable` says.) -/
def Obligations.WordsDecodeByFamily : Prop :=
  (∀ op : Word, op.toNat / 4096 = 0 →
    (op = 0x00E0#16 → decode op = .instr .cls) ∧ (op = 0x00EE#16 → decode op = .instr .ret) ∧
    (op ≠ 0x00E0#16 → op ≠ 0x00EE#16 → decode op = .unknownOpcode op)) ∧
  (∀ (op : Word) (nnn : Addr12), nnn.toNat = op.toNat % 4096 →
    (op.toNat / 4096 = 0x1 → decode op = .instr (.jp nnn)) ∧ (op.toNat / 4096 = 0x2 → decode op = .instr (.call nnn)) ∧
    (op.toNat / 4096 = 0xA → decode op = .instr (.ldI nnn)) ∧ (op.toNat / 4096 = 0xB → decode op = .instr (.jpV0 nnn))) ∧
  (∀ (op : Word) (x : Reg) (nn : Byte), x.val = op.toNat / 256 % 16 → nn.toNat = op.toNat % 256 →
    (op.toNat / 4096 = 0x3 → decode op = .instr (.seImm x nn)) ∧ (op.toNat / 4096 = 0x4 → decode op = .instr (.sneImm x nn)) ∧
    (op.toNat / 4096 = 0x6 → decode op = .instr (.ldImm x nn)) ∧ (op.toNat / 4096 = 0x7 → decode op = .instr (.addImm x nn)) ∧
    (op.toNat / 4096 = 0xC → decode op = .instr (.rnd x nn))) ∧
  (∀ (op : Word) (x y : Reg), x.val = op.toNat / 256 % 16 → y.val = op.toNat / 16 % 16 →
    (op.toNat / 4096 = 0x5 → decode op = if op.toNat % 16 = 0 then .instr (.seReg x y) else .unknownOpcode op) ∧
    (op.toNat / 4096 = 0x9 → decode op = if op.toNat % 16 = 0 then .instr (.sneReg x y) else .unknownOpcode op) ∧
    (op.toNat / 4096 = 0x8 →
      (op.toNat % 16 = 0x0 → decode op = .instr (.ldReg x y)) ∧ (op.toNat % 16 = 0x1 → decode op = .instr (.orReg x y)) ∧
      (op.toNat % 16 = 0x2 → decode op = .instr (.andReg x y)) ∧ (op.toNat % 16 = 0x3 → decode op = .instr (.xorReg x y)) ∧
      (op.toNat % 16 = 0x4 → decode op = .instr (.addReg x y)) ∧ (op.toNat % 16 = 0x5 → decode op = .instr (.sub x y)) ∧
      (op.toNat % 16 = 0x6 → decode op = .instr (.shr x y)) ∧ (op.toNat % 16 = 0x7 → decode op = .instr (.subn x y)) ∧
      (op.toNat % 16 = 0xE → decode op = .instr (.shl x y)) ∧
      (op.toNat % 16 ∈ [0x8, 0x9, 0xA, 0xB, 0xC, 0xD, 0xF] → decode op = .unknownOpcode op)) ∧
    (op.toNat / 4096 = 0xD → decode op = .instr (.drw x y (op.toNat % 16)))) ∧
  (∀ (op : Word) (x : Reg), x.val = op.toNat / 256 % 16 →
    (op.toNat / 4096 = 0xE →
      (op.toNat % 256 = 0x9E → decode op = .instr (.skp x)) ∧ (op.toNat % 256 = 0xA1 → decode op = .instr (.sknp x)) ∧
      (op.toNat % 256 ∉ [0x9E, 0xA1] → decode op = .unknownOpcode op)) ∧
    (op.toNat / 4096 = 0xF →
      (op.toNat % 256 = 0x07 → decode op = .instr (.ldVxDt x)) ∧ (op.toNat % 256 = 0x0A → decode op = .instr (.ldVxK x)) ∧
      (op.toNat % 256 = 0x15 → decode op = .instr (.ldDtVx x)) ∧ (op.toNat % 256 = 0x18 → decode op = .instr (.ldStVx x)) ∧
      (op.toNat % 256 = 0x1E → decode op = .instr (.addI x)) ∧ (op.toNat % 256 = 0x29 → decode op = .instr (.ldF x)) ∧
      (op.toNat % 256 = 0x33 → decode op = .instr (.ldB x)) ∧ (op.toNat % 256 = 0x55 → decode op = .instr (.storeRegs x)) ∧
      (op.toNat % 256 = 0x65 → decode op = .instr (.loadRegs x)) ∧
      (op.toNat % 256 ∉ [0x07, 0x0A, 0x15, 0x18, 0x1E, 0x29, 0x33, 0x55, 0x65] → decode op = .unknownOpcode op)))

/-! ### The step cycle and faults -/

/-- R121 and R122: in Running, a fetch whose low byte would come from above 0xFFF raises OutOfRangeAddress(0x1000);
otherwise the opcode is `mem[pc] * 256 + mem[pc+1]`, a word that is no instruction raises UnknownOpcode with the word,
and for a word that is one, `step` is exactly `exec` of the decoded instruction. -/
def Obligations.StepFetchesDecodesAndExecutes : Prop :=
  ∀ s : State, s.run = .running →
    (s.pc.toNat + 1 > 0xFFF → step s = .next { s with run := .faulted .outOfRangeAddress s.pc 0x1000#16 }) ∧
    (s.pc.toNat + 1 ≤ 0xFFF → ∀ op : Word,
      op.toNat = (s.memByte s.pc.toNat).toNat * 256 + (s.memByte (s.pc.toNat + 1)).toNat →
      (∀ i, decode op = .instr i → step s = exec i s) ∧
      ((∀ i, decode op ≠ .instr i) → step s = .next { s with run := .faulted .unknownOpcode s.pc op }))

/-- The spec's decision D4 (log 15; rules R130, R249, R267): in Faulted, `step()` and `tick()` change nothing and emit
nothing, `setKey()`, `snapshot()` and `loadGame()` act on their own items only (what a load writes:
`LoadGameCopiesVerbatim`, for every state), an over-long load changes nothing, and no operation but `reset()` changes
`run`. -/
def Obligations.FaultedStateIsFrozenUntilReset : Prop :=
  ∀ (s : State) (c : Cause) (p info : Word), s.run = .faulted c p info →
    step s = .next s ∧ operate .step s = .next (s, []) ∧ operate .tick s = .next (s, []) ∧
    (∀ k b, operate (.setKey k b) s = .next ({ s with key := s.key.set k.val b k.isLt }, [])) ∧
    operate .snapshot s = .next ({ s with frameDirty := false }, [.frame s.fb]) ∧
    (∀ bytes, bytes.length > 3584 → operate (.loadGame bytes) s = .next (s, [])) ∧
    (∀ bytes, ∃ m, operate (.loadGame bytes) s = .next ({ s with mem := m }, [])) ∧
    (∀ op t es, op ≠ .reset → operate op s = .next (t, es) → t.run = s.run)

/-- The spec's decision D1 (log 13; rules R11, R266): whichever operation raises a fault, everything it wrote is
discarded: the state after it is the state before it but for `run`, and the record holds the pc it began with. -/
def Obligations.FaultEntryIsPrecise : Prop :=
  ∀ (op : Operation) (s t : State) (es : List Event) (c : Cause) (p info : Word),
    operate op s = .next (t, es) → s.isFaulted = false → t.run = .faulted c p info →
    t = { s with run := .faulted c s.pc info } ∧ es = []

/-- Nothing stops the model: in every state, whatever the memory holds, `step()` answers a next state, and so does
every other operation (R12, R113, R266: a fault is a state; R132: there is no halt). -/
def Obligations.EveryOperationAnswersANextState : Prop :=
  (∀ s : State, ∃ t, step s = .next t) ∧ ∀ (op : Operation) (s : State), ∃ t es, operate op s = .next (t, es)

/-- Rules R124, R125, R127 and R264, with the spec's decisions D2, D3 and D9 (log 13, 14, 19): each of the 34
instructions raises exactly the first fault of the rules' order, with its cause and info and only `run` changed; and
where the rules name none it completes, with pc at the target of its class and `run` unchanged but for Fx0A. -/
def Obligations.FirstFaultInRuleOrder : Prop :=
  ∀ (i : Instr) (s : State),
    (∀ c info, instructionFault? i s = some (c, info) → exec i s = .next { s with run := .faulted c s.pc info }) ∧
    (instructionFault? i s = none →
      ∃ t, exec i s = .next t ∧ t.run = runAfter i s ∧ t.pc.toNat = (pcTarget? i s).getD s.pc.toNat)

/-- R232, the complete state machine of `run` (derived in the spec from R230, R231, R120, R130; decisions D4, D10,
D11, D17; log 15, 21, 24): under `step()` from Running, AwaitingKey and Faulted, and under the other operations. -/
def Obligations.RunStateMachine : Prop :=
  (∀ s t : State, step s = .next t →
    (s.run = .running →
      (∀ x, s.nextInstr? = some (.ldVxK x) → t.run = .awaitingKey x) ∧
      ((∀ x, s.nextInstr? ≠ some (.ldVxK x)) → t.isFaulted = false → t.run = .running) ∧
      (s.nextInstr? = none → t.isFaulted = true)) ∧
    (∀ x, s.run = .awaitingKey x →
      ((∀ k, s.key.get k = false) → t = s) ∧
      (∀ k, s.key.get k = true → s.pc.toNat + 2 ≤ 0xFFF → t.run = .running) ∧
      (∀ k, s.key.get k = true → s.pc = 0xFFE#16 → t.run = .faulted .outOfRangeAddress 0xFFE#16 0x1000#16)) ∧
    (∀ c p info, s.run = .faulted c p info → t.run = s.run)) ∧
  (∀ (op : Operation) (s t : State) (es : List Event), operate op s = .next (t, es) →
    (op = .reset → t.run = .running) ∧ (op = .tick → t.run = s.run) ∧ (op = .snapshot → t.run = s.run) ∧
    (∀ k b, op = .setKey k b → t.run = s.run) ∧ (∀ bs, op = .loadGame bs → bs.length ≤ 3584 → t.run = s.run))

/-- R125, last sentence (decision D2, log 13): at 0xFFE only the absolute jumps, CALL, RET and Fx0A can execute
without a fault. -/
def Obligations.OnlyJumpsAndWaitsExecuteAtTheTop : Prop :=
  ∀ (i : Instr) (s t : State), s.pc = 0xFFE#16 → s.run = .running → exec i s = .next t → t.isFaulted = false →
    i = .ret ∨ (∃ nnn, i = .jp nnn ∨ i = .call nnn ∨ i = .jpV0 nnn) ∨ ∃ x, i = .ldVxK x

/-! ### Control transfer -/

/-- R141: the word 0x1000 + nnn is JP nnn; it always completes, at nnn, and changes nothing else; at its own address
it changes nothing at all. -/
def Obligations.JumpGoesToItsAddress : Prop :=
  ∀ (s : State) (nnn : Addr12),
    decode (BitVec.ofNat 16 (0x1000 + nnn.toNat)) = .instr (.jp nnn) ∧
    exec (.jp nnn) s = .next { s with pc := BitVec.ofNat 16 nnn.toNat } ∧
    (nnn.toNat = s.pc.toNat → exec (.jp nnn) s = .next s)

/-- R143: JP V0, nnn goes to the unreduced sum nnn + V0; where the sum exceeds 0xFFF it faults with the sum; nothing
else changes. -/
def Obligations.JumpPlusV0IsNotReduced : Prop :=
  ∀ (s : State) (nnn : Addr12),
    (nnn.toNat + (s.getV 0).toNat ≤ 0xFFF →
      exec (.jpV0 nnn) s = .next { s with pc := BitVec.ofNat 16 (nnn.toNat + (s.getV 0).toNat) }) ∧
    (nnn.toNat + (s.getV 0).toNat > 0xFFF →
      faultsWith (.jpV0 nnn) s .outOfRangeAddress (BitVec.ofNat 16 (nnn.toNat + (s.getV 0).toNat)))

/-- R142: CALL pushes its own address, not its successor's, and jumps; with 16 slots in use it raises StackOverflow
with its opcode and changes nothing else. -/
def Obligations.CallPushesItsOwnAddress : Prop :=
  ∀ (s : State) (nnn : Addr12),
    (s.sp.val < 16 → ∃ t, exec (.call nnn) s = .next t ∧ t = { s with stack := t.stack, sp := t.sp, pc := t.pc } ∧
      t.sp.val = s.sp.val + 1 ∧ t.pc.toNat = nnn.toNat ∧
      ∀ j : Fin 16, t.slot j = if j.val = s.sp.val then s.pc else s.slot j) ∧
    (s.sp.val = 16 → faultsWith (.call nnn) s .stackOverflow (BitVec.ofNat 16 (0x2000 + nnn.toNat)))

/-- R140: RET pops and goes to the popped value plus 2, the slot keeping its value; with no slot in use it raises
StackUnderflow(0x00EE), and where the target exceeds 0xFFF OutOfRangeAddress, in both cases with nothing popped. -/
def Obligations.ReturnResumesAfterTheCall : Prop :=
  ∀ s : State,
    (s.sp.val = 0 → faultsWith .ret s .stackUnderflow 0x00EE#16) ∧
    (∀ j : Fin 16, s.sp.val = j.val + 1 →
      ((s.slot j).toNat + 2 ≤ 0xFFF → ∃ t, exec .ret s = .next t ∧ t = { s with sp := t.sp, pc := t.pc } ∧
        t.sp.val = j.val ∧ t.pc.toNat = (s.slot j).toNat + 2) ∧
      ((s.slot j).toNat + 2 > 0xFFF →
        faultsWith .ret s .outOfRangeAddress (BitVec.ofNat 16 ((s.slot j).toNat + 2))))

/-- R144 to R147: the four register skips compare unsigned bytes and change only pc. -/
def Obligations.RegisterSkips : Prop :=
  ∀ (s : State) (x y : Reg) (nn : Byte),
    skipsExactlyWhen (.seImm x nn) s ((s.getV x).toNat = nn.toNat) ∧
    skipsExactlyWhen (.sneImm x nn) s ((s.getV x).toNat ≠ nn.toNat) ∧
    skipsExactlyWhen (.seReg x y) s ((s.getV x).toNat = (s.getV y).toNat) ∧
    skipsExactlyWhen (.sneReg x y) s ((s.getV x).toNat ≠ (s.getV y).toNat)

/-- R148 (derived in the spec from R140 and R142): whatever operations but `reset()` fall between a CALL at address a
and its matching RET (the depth never drops below the call's, and is the call's again), RET continues at a + 2 with
the stack pointer the call found. -/
def Obligations.CallAndMatchingReturnBalance : Prop :=
  ∀ (s t u : State) (nnn : Addr12) (ops : List Operation) (es : List Event),
    s.nextInstr? = some (.call nnn) → s.sp.val < 16 → s.pc.toNat + 2 ≤ 0xFFF → step s = .next t →
    operateAll ops t = .next (u, es) → runAvoids (fun _ => false) ops t = true → runKeepsDepth t.sp.val ops t = true →
    u.sp = t.sp → u.nextInstr? = some .ret →
    ∃ w, step u = .next w ∧ w.run = .running ∧ w.pc.toNat = s.pc.toNat + 2 ∧ w.sp = s.sp

/-! ### Registers and flags -/

/-- R160 to R162: load immediate, add immediate (modulo 256, no flag) and register copy write Vx alone. -/
def Obligations.LoadsAndAddImmediate : Prop :=
  ∀ (s : State) (x y : Reg) (nn : Byte),
    completesWithReg (.ldImm x nn) s x nn.toNat ∧
    completesWithReg (.addImm x nn) s x (((s.getV x).toNat + nn.toNat) % 256) ∧
    completesWithReg (.ldReg x y) s x (s.getV y).toNat

/-- R163 to R165: the bitwise instructions write Vx alone; VF is not touched unless it is Vx (decision D7, log 17). -/
def Obligations.BitwiseInstructions : Prop :=
  ∀ (s : State) (x y : Reg),
    completesWithReg (.orReg x y) s x ((s.getV x).toNat ||| (s.getV y).toNat) ∧
    completesWithReg (.andReg x y) s x ((s.getV x).toNat &&& (s.getV y).toNat) ∧
    completesWithReg (.xorReg x y) s x ((s.getV x).toNat ^^^ (s.getV y).toNat)

/-- R166: 8xy4 reads both operands first; VF is the carry, unless x = 0xF, where the sum overwrites it (the order of
the two writes is decision D6, log 16). -/
def Obligations.AddSetsCarry : Prop :=
  ∀ (s : State) (x y : Reg),
    (x ≠ Reg.F → completesWithRegAndFlag (.addReg x y) s x (((s.getV x).toNat + (s.getV y).toNat) % 256)
      (bit ((s.getV x).toNat + (s.getV y).toNat > 255))) ∧
    (x = Reg.F → completesWithReg (.addReg x y) s x (((s.getV x).toNat + (s.getV y).toNat) % 256))

/-- R167 to R170 with the table of R173, whose columns for a VF operand are the spec's decision D6 (log 16): what Vx
and VF hold after 8xy5, 8xy6, 8xy7 and 8xyE, for x and y apart from VF, for y = VF, for x = VF and for both. -/
def Obligations.SubtractAndShiftTable : Prop :=
  ∀ (s : State) (x y : Reg) (a b v : Nat),
    a = (s.getV x).toNat → b = (s.getV y).toNat → v = (s.getV Reg.F).toNat →
    (x ≠ Reg.F → y ≠ Reg.F →
      completesWithRegAndFlag (.sub x y) s x ((a + 256 - b) % 256) (bit (a ≥ b)) ∧
      completesWithRegAndFlag (.subn x y) s x ((b + 256 - a) % 256) (bit (b ≥ a))) ∧
    (x ≠ Reg.F → y = Reg.F →
      completesWithRegAndFlag (.sub x y) s x ((a + 256 - bit (a ≥ v)) % 256) (bit (a ≥ v)) ∧
      completesWithRegAndFlag (.subn x y) s x ((bit (v ≥ a) + 256 - a) % 256) (bit (v ≥ a))) ∧
    (x = Reg.F → y ≠ Reg.F →
      completesWithReg (.sub x y) s x ((bit (v ≥ b) + 256 - b) % 256) ∧
      completesWithReg (.subn x y) s x ((b + 256 - bit (b ≥ v)) % 256)) ∧
    (x = Reg.F → y = Reg.F → completesWithReg (.sub x y) s x 0 ∧ completesWithReg (.subn x y) s x 0) ∧
    (x ≠ Reg.F →
      completesWithRegAndFlag (.shr x y) s x (a / 2) (a % 2) ∧
      completesWithRegAndFlag (.shl x y) s x (2 * a % 256) (a / 128)) ∧
    (x = Reg.F → completesWithReg (.shr x y) s x 0 ∧ completesWithReg (.shl x y) s x (2 * (v / 128)))

/-- R171 with decision D14: Cxnn writes the drawn byte masked with nn, so every bit outside nn is 0, and nothing else.
The byte is the model's free value `Config.randomByte` at the counter `draws` (log 2), which the completed
instruction, and only it, advances; the statement holds for every value of both. -/
def Obligations.RandomByteIsMasked : Prop :=
  ∀ (s : State) (x : Reg) (nn : Byte),
    (s.pc.toNat + 2 ≤ 0xFFF → ∃ t, exec (.rnd x nn) s = .next t ∧
      t = { s with V := t.V, pc := t.pc, draws := s.draws + 1 } ∧ t.pc.toNat = s.pc.toNat + 2 ∧
      t.getV x = Config.randomByte s.draws &&& nn ∧ (∀ k, nn.getLsbD k = false → (t.getV x).getLsbD k = false) ∧
      ∀ r, r ≠ x → t.getV r = s.getV r) ∧
    faultsPastTheTop (.rnd x nn) s 2

/-! ### Index register and memory -/

/-- R190 and R191: Annn loads I, Fx1E adds Vx modulo 4096 and touches no flag (decision D7, log 17). -/
def Obligations.IndexLoadAndAdd : Prop :=
  ∀ (s : State) (x : Reg) (nnn : Addr12),
    completesWithIndex (.ldI nnn) s nnn.toNat ∧
    completesWithIndex (.addI x) s ((s.I.toNat + (s.getV x).toNat) % 4096)

/-- R192 with decision D25 (log 22): Fx29 sets I to five times the whole byte Vx, unmasked, and changes nothing else
but pc. -/
def Obligations.FontAddressIsFiveTimesTheRegister : Prop :=
  ∀ (s : State) (x : Reg), completesWithIndex (.ldF x) s ((s.getV x).toNat * 5)

/-- R193: Fx33 stores the three decimal digits of Vx at I, I+1, I+2, changes no other byte and nothing else but pc;
where I + 2 exceeds 0xFFF it raises OutOfRangeAddress(0x1000) and writes nothing. -/
def Obligations.BcdStoresTheDecimalDigits : Prop :=
  ∀ (s : State) (x : Reg) (v : Nat), s.memWf = true → v = (s.getV x).toNat →
    (s.I.toNat + 2 ≤ 0xFFF → s.pc.toNat + 2 ≤ 0xFFF → ∃ t, exec (.ldB x) s = .next t ∧
      t = { s with mem := t.mem, pc := t.pc } ∧ t.pc.toNat = s.pc.toNat + 2 ∧
      (t.memByte (s.dataAddress 0)).toNat = v / 100 ∧ (t.memByte (s.dataAddress 1)).toNat = v / 10 % 10 ∧
      (t.memByte (s.dataAddress 2)).toNat = v % 10 ∧
      ∀ a, a < s.dataAddress 0 ∨ s.dataAddress 2 < a → t.memByte a = s.memByte a) ∧
    (s.I.toNat + 2 ≤ 0xFFF → faultsPastTheTop (.ldB x) s 2) ∧
    (s.I.toNat + 2 > 0xFFF → faultsWith (.ldB x) s .outOfRangeAddress 0x1000#16)

/-- R194 (I unchanged is decision D7, the check before any write D1; log 13, 17): Fx55 stores V0..Vx at I..I+x,
changes no other byte and nothing else but pc; where I + x exceeds 0xFFF it faults and writes nothing. -/
def Obligations.StoreRegistersFromIndex : Prop :=
  ∀ (s : State) (x : Reg), s.memWf = true →
    (s.I.toNat + x.val ≤ 0xFFF → s.pc.toNat + 2 ≤ 0xFFF → ∃ t, exec (.storeRegs x) s = .next t ∧
      t = { s with mem := t.mem, pc := t.pc } ∧ t.pc.toNat = s.pc.toNat + 2 ∧
      (∀ k : Reg, k.val ≤ x.val → t.memByte (s.dataAddress k.val) = s.getV k) ∧
      ∀ a, a < s.dataAddress 0 ∨ s.dataAddress x.val < a → t.memByte a = s.memByte a) ∧
    (s.I.toNat + x.val ≤ 0xFFF → faultsPastTheTop (.storeRegs x) s 2) ∧
    (s.I.toNat + x.val > 0xFFF → faultsWith (.storeRegs x) s .outOfRangeAddress 0x1000#16)

/-- R195 (decisions D7, D1; log 13, 17): Fx65 loads V0..Vx from I..I+x and changes no register above Vx, no byte of
memory and nothing else but pc; where I + x exceeds 0xFFF it faults and writes no register. -/
def Obligations.LoadRegistersFromIndex : Prop :=
  ∀ (s : State) (x : Reg),
    (s.I.toNat + x.val ≤ 0xFFF → s.pc.toNat + 2 ≤ 0xFFF → ∃ t, exec (.loadRegs x) s = .next t ∧
      t = { s with V := t.V, pc := t.pc } ∧ t.pc.toNat = s.pc.toNat + 2 ∧
      (∀ k : Reg, k.val ≤ x.val → t.getV k = s.memByte (s.dataAddress k.val)) ∧
      ∀ k : Reg, x.val < k.val → t.getV k = s.getV k) ∧
    (s.I.toNat + x.val ≤ 0xFFF → faultsPastTheTop (.loadRegs x) s 2) ∧
    (s.I.toNat + x.val > 0xFFF → faultsWith (.loadRegs x) s .outOfRangeAddress 0x1000#16)

/-- From R194 and R195: what Fx55 stored, Fx65 gives back, whatever the registers hold in between. -/
def Obligations.StoredRegistersLoadBack : Prop :=
  ∀ (s t u w : State) (x : Reg), s.memWf = true → s.I.toNat + x.val ≤ 0xFFF → s.pc.toNat + 2 ≤ 0xFFF →
    exec (.storeRegs x) s = .next t → (∀ a, u.memByte a = t.memByte a) → u.I = s.I → u.pc.toNat + 2 ≤ 0xFFF →
    exec (.loadRegs x) u = .next w → ∀ k : Reg, w.getV k = if k.val ≤ x.val then s.getV k else u.getV k

/-- R73 (derived in the spec from R67 and R39): an Fx55 that writes over the two bytes after itself is seen by the
very next fetch: the next step executes the instruction V0, V1 spell. -/
def Obligations.NextFetchSeesTheStore : Prop :=
  ∀ (s t : State) (x : Reg) (i : Instr), s.memWf = true → s.nextInstr? = some (.storeRegs x) → 1 ≤ x.val →
    s.I.toNat = s.pc.toNat + 2 → s.I.toNat + x.val ≤ 0xFFF → s.pc.toNat + 3 ≤ 0xFFF → step s = .next t →
    decode (bigEndian (s.getV 0) (s.getV 1)) = .instr i → t.nextInstr? = some i ∧ step t = exec i t

/-- The model's memory list (log 3) has one form for each content: two canonical lists that read the same at every
address of memory are equal. -/
def Obligations.EqualMemoryContentsAreEqualData : Prop :=
  ∀ (font : Font) (m m' : Memory), Memory.wf font m = true → Memory.wf font m' = true →
    (∀ a, a ≤ 0xFFF → Memory.read font m a = Memory.read font m' a) → m = m'

/-! ### Display -/

/-- R210 with decision D12 (log 20): 00E0 clears every pixel, always sets `frame_dirty`, and changes nothing else but
pc; VF is not written. -/
def Obligations.ClearBlanksEveryPixel : Prop :=
  ∀ s : State,
    (s.pc.toNat + 2 ≤ 0xFFF → ∃ t, exec .cls s = .next t ∧
      t = { s with fb := t.fb, frameDirty := true, pc := t.pc } ∧ t.pc.toNat = s.pc.toNat + 2 ∧
      ∀ c r, Framebuffer.pixel t.fb c r = false) ∧
    faultsPastTheTop .cls s 2

/-- R213 (derived in the spec from R211 and R212; decisions D1 and D8, log 13 and 18): the sequential loops of Dxyn
equal the parallel definition. A completed Dxyn toggles exactly the pixels the sprite covers, toroidally; VF is 1 if
one of them was set before and else 0; `frame_dirty` is set; nothing else but pc changes. The origin is read before VF
is written, for x or y = 0xF too. -/
def Obligations.DrawIsTheParallelXor : Prop :=
  ∀ (s : State) (x y : Reg) (n vx vy : Nat), n ≤ 15 → vx = (s.getV x).toNat → vy = (s.getV y).toNat →
    ((n = 0 ∨ s.I.toNat + n - 1 ≤ 0xFFF) → faultsPastTheTop (.drw x y n) s 2) ∧
    (n > 0 → s.I.toNat + n - 1 > 0xFFF → faultsWith (.drw x y n) s .outOfRangeAddress 0x1000#16) ∧
    ((n = 0 ∨ s.I.toNat + n - 1 ≤ 0xFFF) → s.pc.toNat + 2 ≤ 0xFFF → ∃ t, exec (.drw x y n) s = .next t ∧
      t = { s with V := t.V, fb := t.fb, frameDirty := true, pc := t.pc } ∧
      t.pc.toNat = s.pc.toNat + 2 ∧
      (∀ c r, (spriteCovers s vx vy n c r → Framebuffer.pixel t.fb c r = !(Framebuffer.pixel s.fb c r)) ∧
        (¬ spriteCovers s vx vy n c r → Framebuffer.pixel t.fb c r = Framebuffer.pixel s.fb c r)) ∧
      ((∃ c r, spriteCovers s vx vy n c r ∧ Framebuffer.pixel s.fb c r = true) → t.getV Reg.F = 1#8) ∧
      ((¬ ∃ c r, spriteCovers s vx vy n c r ∧ Framebuffer.pixel s.fb c r = true) → t.getV Reg.F = 0#8) ∧
      ∀ r, r ≠ Reg.F → t.getV r = s.getV r)

/-- R213, last sentence (the source's "Draw idempotence"): drawing the same sprite twice at the same origin restores
the framebuffer, and the second draw's VF is 1 exactly if the first turned some pixel on. That the origin is the same
is a premise, since with x or y = 0xF the first draw may have moved it. -/
def Obligations.DrawingTwiceRestoresTheScreen : Prop :=
  ∀ (s t u : State) (x y : Reg) (n : Nat), n ≤ 15 → s.run = .running →
    exec (.drw x y n) s = .next t → t.run = .running → t.getV x = s.getV x → t.getV y = s.getV y →
    exec (.drw x y n) t = .next u → u.run = .running →
    u.fb = s.fb ∧
    (u.getV Reg.F = 1#8 ↔ ∃ c r, Framebuffer.pixel s.fb c r = false ∧ Framebuffer.pixel t.fb c r = true)

/-! ### Keys -/

/-- R227, R228 and R269 with decision D9 (log 19): Ex9E and ExA1 test the key whose number Vx holds and change only
pc; a number above 0xF raises KeyIndexOutOfRange with that number. -/
def Obligations.KeySkips : Prop :=
  ∀ (s : State) (x : Reg),
    (∀ k : Fin 16, k.val = (s.getV x).toNat →
      skipsExactlyWhen (.skp x) s (s.key.get k = true) ∧ skipsExactlyWhen (.sknp x) s (s.key.get k = false)) ∧
    ((s.getV x).toNat > 0xF →
      faultsWith (.skp x) s .keyIndexOutOfRange (BitVec.ofNat 16 (s.getV x).toNat) ∧
      faultsWith (.sknp x) s .keyIndexOutOfRange (BitVec.ofNat 16 (s.getV x).toNat))

/-- R230 and R231 with decisions D10 and D11 (log 21): the step that executes Fx0A only enters the wait; each later
step polls: with no key down it changes nothing, with keys down it stores the lowest one's number in the target,
advances pc by 2 and runs again, or faults where pc + 2 exceeds 0xFFF. -/
def Obligations.KeyWaitEntersAndPolls : Prop :=
  (∀ (s : State) (x : Reg), exec (.ldVxK x) s = .next { s with run := .awaitingKey x }) ∧
  (∀ (s : State) (x : Reg), s.run = .awaitingKey x →
    ((∀ k, s.key.get k = false) → step s = .next s) ∧
    (∀ k, s.key.get k = true → (∀ j, j < k → s.key.get j = false) →
      (s.pc.toNat + 2 ≤ 0xFFF → ∃ t, step s = .next t ∧ t = { s with V := t.V, pc := t.pc, run := .running } ∧
        t.pc.toNat = s.pc.toNat + 2 ∧ (t.getV x).toNat = k.val ∧ ∀ r, r ≠ x → t.getV r = s.getV r) ∧
      (s.pc.toNat + 2 > 0xFFF →
        step s = .next { s with run := .faulted .outOfRangeAddress s.pc (BitVec.ofNat 16 (s.pc.toNat + 2)) })))

/-- R33, R225 and C2: no step and no other operation writes the key latch; `setKey(k, pressed)` writes flag k and
nothing else, and `reset()` clears all sixteen. -/
def Obligations.OnlySetKeyAndResetWriteTheLatch : Prop :=
  ∀ (op : Operation) (s t : State) (es : List Event), operate op s = .next (t, es) →
    ((∀ k b, op ≠ .setKey k b) → op ≠ .reset → t.key = s.key) ∧
    (∀ k b, op = .setKey k b → t = { s with key := t.key } ∧ es = [] ∧ ∀ j, t.key.get j = if j = k then b else s.key.get j) ∧
    (op = .reset → ∀ j, t.key.get j = false)

/-! ### Timers -/

/-- R240 to R242: Fx07 reads DT into Vx, Fx15 and Fx18 copy Vx into DT and ST; nothing else but pc changes. -/
def Obligations.TimerInstructions : Prop :=
  ∀ (s : State) (x : Reg),
    completesWithReg (.ldVxDt x) s x s.DT.toNat ∧
    (s.pc.toNat + 2 ≤ 0xFFF →
      (∃ t, exec (.ldDtVx x) s = .next t ∧ t = { s with DT := s.getV x, pc := t.pc } ∧ t.pc.toNat = s.pc.toNat + 2) ∧
      ∃ t, exec (.ldStVx x) s = .next t ∧ t = { s with ST := s.getV x, pc := t.pc } ∧ t.pc.toNat = s.pc.toNat + 2) ∧
    faultsPastTheTop (.ldDtVx x) s 2 ∧ faultsPastTheTop (.ldStVx x) s 2

/-- R244: in Running and in AwaitingKey `tick()` takes 1 from each timer that is not 0, emits the beep exactly where
ST was 1, and changes nothing else. -/
def Obligations.TickCountsBothTimersDown : Prop :=
  ∀ s : State, (s.run = .running ∨ ∃ x, s.run = .awaitingKey x) →
    ∃ t es, operate .tick s = .next (t, es) ∧ t = { s with DT := t.DT, ST := t.ST } ∧
      t.DT.toNat = s.DT.toNat - 1 ∧ t.ST.toNat = s.ST.toNat - 1 ∧ es = if s.ST.toNat = 1 then [.beep] else []

/-- The laws of R245 and R246 for every run of operations: with no Fx15 (Fx18) executed, no `reset()` and no fault,
after k ticks among any number of other operations DT (ST) is v - k, stopping at 0, and exactly one beep was emitted
if k has reached v >= 1, else none. -/
def Obligations.TimersAfterAnyRun : Prop :=
  ∀ (ops : List Operation) (s t : State) (es : List Event), operateAll ops s = .next (t, es) → t.isFaulted = false →
    (runAvoids (fun i => match i with | .ldDtVx _ => true | _ => false) ops s = true →
      t.DT.toNat = s.DT.toNat - tickCount ops) ∧
    (runAvoids (fun i => match i with | .ldStVx _ => true | _ => false) ops s = true →
      t.ST.toNat = s.ST.toNat - tickCount ops ∧
      beepCount es = if 1 ≤ s.ST.toNat ∧ s.ST.toNat ≤ tickCount ops then 1 else 0)

/-- R131 and R248: steps and ticks are independent: around a step that executes no timer instruction and raises no
fault (in a wait too: decision D21, log 26), a `tick()` before it and one after it give the same state and the same
beep. For Cxnn both steps are given the same draw, since their states hold the same `draws`: that is the model's
choice (log 2; the spec's D14 lets the two bytes differ). -/
def Obligations.TickCommutesWithStep : Prop :=
  ∀ s t : State,
    s.nextInstr?.any (fun i => match i with | .ldVxDt _ | .ldDtVx _ | .ldStVx _ => true | _ => false) = false →
    step s = .next t → t.isFaulted = false → step s.tick = .next t.tick ∧ s.tickBeeps = t.tickBeeps

/-! ### Whole-machine rules: what no instruction reads -/

/-- R31 ("no instruction reads it") and R38 ("The engine ... never reads it"): the sound timer and `frame_dirty` have
no influence on a step: from two states that differ only in them, the steps differ only in them. For Cxnn both steps
are given the same draw, since their states hold the same `draws`: that is the model's choice (log 2; the spec's D14
lets the two bytes differ). -/
def Obligations.StepNeverReadsSoundTimerOrDirtyFlag : Prop :=
  ∀ (s t : State) (b : Byte) (d : Bool), step s = .next t →
    ∃ b' d', step { s with ST := b, frameDirty := d } = .next { t with ST := b', frameDirty := d' }

/-- R245 ("DT is observable only through Fx07"): a step that does not execute Fx07 is not influenced by DT. For Cxnn
both steps are given the same draw, since their states hold the same `draws`: that is the model's choice (log 2; the
spec's D14 lets the two bytes differ). -/
def Obligations.OnlyFx07ReadsTheDelayTimer : Prop :=
  ∀ (s t : State) (b : Byte), (∀ x, s.nextInstr? ≠ some (.ldVxDt x)) → step s = .next t →
    ∃ b', step { s with DT := b } = .next { t with DT := b' }

/-- R148 and R28 (decision D24, log 27): stack slots at or above sp cannot be read: from two states that differ only
in such slots, the steps differ only in slots at or above the new sp. For Cxnn both steps are given the same draw,
since their states hold the same `draws`: that is the model's choice (log 2; the spec's D14 lets the two bytes
differ). -/
def Obligations.SlotsAboveTheStackPointerAreInvisible : Prop :=
  ∀ s u t : State, u = { s with stack := u.stack } → (∀ j : Fin 16, j.val < s.sp.val → u.slot j = s.slot j) →
    step s = .next t →
    ∃ w, step u = .next w ∧ w = { t with stack := w.stack } ∧ ∀ j : Fin 16, j.val < t.sp.val → w.slot j = t.slot j

/-! ### Frames: what each of the 34 instructions leaves unchanged, by kind of state (R128; the columns of R20) -/

/-- R21, R22 and R128: a register changes only if it is a destination of the instruction (its x field; V0..Vx for
Fx65) or it is VF and the instruction is one of the six flag writers (decision D7, log 17). -/
def Obligations.RegisterFrameOfEveryInstruction : Prop :=
  ∀ (i : Instr) (s t : State) (r : Reg), exec i s = .next t → i.hasDestination r = false →
    (r = Reg.F → i.writesFlag = false) → t.getV r = s.getV r

/-- R63, R75 and R128: Fx33 and Fx55 change no byte outside the block they store, at I on; no other instruction
changes any byte (decision D7, log 17). -/
def Obligations.MemoryFrameOfEveryInstruction : Prop :=
  ∀ (i : Instr) (s t : State) (base : Nat), exec i s = .next t → base = s.dataAddress 0 →
    ∀ a, a < base ∨ base + i.storedBytes ≤ a → t.memByte a = s.memByte a

/-- R20, R23, R28 to R33, R38 and R128: I, the stack, sp, both timers, the framebuffer with `frame_dirty`, the key
latch, the run state and the model's draw counter change only under the instructions that rule R20 names for each
(decision D7, log 17; the draw counter is the model's own, log 2). -/
def Obligations.SpecialStateFrameOfEveryInstruction : Prop :=
  ∀ (i : Instr) (s t : State), exec i s = .next t →
    ((∀ nnn, i ≠ .ldI nnn) → (∀ x, i ≠ .addI x) → (∀ x, i ≠ .ldF x) → t.I = s.I) ∧
    ((∀ nnn, i ≠ .call nnn) → t.stack = s.stack) ∧
    (∀ j : Fin 16, j.val ≠ s.sp.val → t.slot j = s.slot j) ∧
    ((∀ nnn, i ≠ .call nnn) → i ≠ .ret → t.sp = s.sp) ∧
    ((∀ x, i ≠ .ldDtVx x) → t.DT = s.DT) ∧
    ((∀ x, i ≠ .ldStVx x) → t.ST = s.ST) ∧
    (i ≠ .cls → (∀ x y n, i ≠ .drw x y n) → t.fb = s.fb ∧ t.frameDirty = s.frameDirty) ∧
    t.key = s.key ∧
    ((∀ x nn, i ≠ .rnd x nn) → t.draws = s.draws) ∧
    ((∀ x, i ≠ .ldVxK x) → t.run = s.run ∨ ∃ c info, t.run = .faulted c s.pc info)

/-! ### Invariants -/

/-- R44: the state after reset meets the invariant, for every FONT (R7, log 4). -/
def Obligations.ResetMeetsTheInvariant : Prop := State.reset.Inv ∧ ∀ font, (State.resetWith font).Inv

/-- R44 with R27, R28, R37, R265 and C14: from every state that meets the invariant, reachable or not, a step leads to
one that meets it: memory canonical, I and pc at most 0xFFF, every slot at most 0xFFE, a waiting pc at most 0xFFE, and
a fault record with the current pc and an info of its cause's range. -/
def Obligations.StepKeepsTheInvariant : Prop := ∀ s t : State, s.Inv → step s = .next t → t.Inv

/-- R44: so does every operation of the environment. -/
def Obligations.EveryOperationKeepsTheInvariant : Prop :=
  ∀ (op : Operation) (s t : State) (es : List Event), s.Inv → operate op s = .next (t, es) → t.Inv

/-- R44: every state the operations reach, in any order and number, from a state that meets the invariant meets it;
the state after `reset()` does, for every FONT (R7, log 4). -/
def Obligations.EveryReachableStateMeetsTheInvariant : Prop :=
  ∀ (ops : List Operation) (s t : State) (es : List Event), (s = State.reset ∨ (∃ font, s = State.resetWith font) ∨ s.Inv) →
    operateAll ops s = .next (t, es) → t.Inv

/-! ### The environment's operations -/

/-- R42 and R290; the items the source does not list by name are decision D22 (log 23): from any state `reset()` emits
nothing and leaves every item at its reset value. Memory holds FONT, the engine's parameter, whatever its bytes (R7,
log 4). -/
def Obligations.ResetLeavesTheResetValues : Prop :=
  ∀ s : State, ∃ t, operate .reset s = .next (t, []) ∧
    (∀ (a : Nat) (h : a < 80), t.memByte a = s.font.get ⟨a, h⟩) ∧ (∀ a, 80 ≤ a → a ≤ 0xFFF → t.memByte a = 0#8) ∧
    (∀ r, t.getV r = 0#8) ∧ t.I = 0#16 ∧ t.pc = 0x200#16 ∧ t.sp.val = 0 ∧ (∀ j, t.slot j = 0#16) ∧ t.DT = 0#8 ∧ t.ST = 0#8 ∧
    (∀ c r, Framebuffer.pixel t.fb c r = false) ∧ (∀ k, t.key.get k = false) ∧ t.run = .running ∧ t.frameDirty = false

/-- R291: `loadGame` of at most 3584 bytes copies them verbatim to 0x200 on, leaves every byte below 0x200 and above
the program as it was, and changes nothing else. -/
def Obligations.LoadGameCopiesVerbatim : Prop :=
  ∀ (s : State) (bytes : List Byte), s.memWf = true → bytes.length ≤ 3584 →
    ∃ t, operate (.loadGame bytes) s = .next (t, []) ∧ t = { s with mem := t.mem } ∧
      (∀ (k : Nat) (h : k < bytes.length), t.memByte (0x200 + k) = bytes[k]) ∧
      ∀ a, a < 0x200 ∨ 0x200 + bytes.length ≤ a → t.memByte a = s.memByte a

/-- R292, decision D17 (log 24), and R218, decision D13 (log 20): a longer load writes nothing and faults with the
current pc, unless the engine has faulted already; `snapshot()` returns the framebuffer and clears `frame_dirty`
alone. -/
def Obligations.OverlongLoadFaultsAndSnapshotAcknowledges : Prop :=
  ∀ (s : State) (bytes : List Byte),
    (bytes.length > 3584 → s.isFaulted = false →
      operate (.loadGame bytes) s = .next ({ s with run := .faulted .outOfRangeAddress s.pc 0x1000#16 }, [])) ∧
    (bytes.length > 3584 → s.isFaulted = true → operate (.loadGame bytes) s = .next (s, [])) ∧
    operate .snapshot s = .next ({ s with frameDirty := false }, [.frame s.fb])

/-- R132 and R141: a jump to its own address leaves the whole state unchanged: the idle loop, by which the spec states
that a program is finished (decision D28). -/
def Obligations.SelfJumpIsIdle : Prop :=
  ∀ (s : State) (nnn : Addr12), s.nextInstr? = some (.jp nnn) → nnn.toNat = s.pc.toNat → step s = .next s

/-! ### The parameter FONT -/

/-- R7 and R40 with decision D15 (log 4): FONT is a parameter, not state. No operation changes it, `reset()` included,
and a step reads it through memory alone: engines of two FONTs with the same bytes in memory execute the same step. For
Cxnn both steps are given the same draw, since their states hold the same `draws`: that is the model's choice (log 2;
the spec's D14 lets the two bytes differ). -/
def Obligations.FontIsAParameter : Prop :=
  (∀ (op : Operation) (s t : State) (es : List Event), operate op s = .next (t, es) → t.font = s.font) ∧
  (∀ s u t : State, s.memWf = true → u.memWf = true → u = { s with mem := u.mem, font := u.font } →
    (∀ a, a ≤ 0xFFF → u.memByte a = s.memByte a) → step s = .next t →
    ∃ w, step u = .next w ∧ w = { t with mem := w.mem, font := u.font } ∧ ∀ a, a ≤ 0xFFF → w.memByte a = t.memByte a)
end

