-- ==== Sys2Proof/Laws/Decode.lean ====
section
/-! SUPPORT. The fields of an opcode as numbers (rule R9), and the fields of a word built in each format (rule R91). -/

namespace Sys2Proof

/-! ### Fields as numbers -/

theorem familyField_toNat (op : Word) : (familyField op).toNat = op.toNat / 4096 := by
  simp [familyField, BitVec.extractLsb'_toNat, Nat.shiftRight_eq_div_pow]; omega

theorem xField_val (op : Word) : (xField op).val = op.toNat / 256 % 16 := by
  show (op.extractLsb' 8 4).toNat = _
  simp [BitVec.extractLsb'_toNat, Nat.shiftRight_eq_div_pow]

theorem yField_val (op : Word) : (yField op).val = op.toNat / 16 % 16 := by
  show (op.extractLsb' 4 4).toNat = _
  simp [BitVec.extractLsb'_toNat, Nat.shiftRight_eq_div_pow]

theorem nField_toNat (op : Word) : (nField op).toNat = op.toNat % 16 := by
  simp [nField, BitVec.extractLsb'_toNat]

theorem nnField_toNat (op : Word) : (nnField op).toNat = op.toNat % 256 := by
  simp [nnField, BitVec.extractLsb'_toNat]

theorem nnnField_toNat (op : Word) : (nnnField op).toNat = op.toNat % 4096 := by
  simp [nnnField, BitVec.extractLsb'_toNat]

theorem regBits_toNat (r : Reg) : (regBits r).toNat = r.val := rfl

/-! ### Words as numbers -/

theorem formatA_toNat (f : BitVec 4) (nnn : Addr12) : (formatA f nnn).toNat = f.toNat * 4096 + nnn.toNat := by
  have := nnn.isLt
  simp only [formatA, BitVec.toNat_append]
  rw [← Nat.shiftLeft_add_eq_or_of_lt this]; simp [Nat.shiftLeft_eq]

theorem formatI_toNat (f : BitVec 4) (x : Reg) (nn : Byte) :
    (formatI f x nn).toNat = f.toNat * 4096 + x.val * 256 + nn.toNat := by
  have h1 : (regBits x ++ nn : BitVec 12).toNat = x.val * 256 + nn.toNat := by
    rw [BitVec.toNat_append, ← Nat.shiftLeft_add_eq_or_of_lt nn.isLt, regBits_toNat, Nat.shiftLeft_eq]
  simp only [formatI, BitVec.toNat_append]
  have h2 := (regBits x ++ nn : BitVec 12).isLt
  rw [BitVec.toNat_append] at h1 h2
  rw [← Nat.shiftLeft_add_eq_or_of_lt h2, h1, Nat.shiftLeft_eq]
  omega

theorem formatR_toNat (f : BitVec 4) (x y : Reg) (fn : BitVec 4) :
    (formatR f x y fn).toNat = f.toNat * 4096 + x.val * 256 + y.val * 16 + fn.toNat := by
  have h1 : (regBits y ++ fn : BitVec 8).toNat = y.val * 16 + fn.toNat := by
    rw [BitVec.toNat_append, ← Nat.shiftLeft_add_eq_or_of_lt fn.isLt, regBits_toNat, Nat.shiftLeft_eq]
  have h2 := formatI_toNat f x (regBits y ++ fn : BitVec 8)
  rw [h1] at h2
  have : formatR f x y fn = formatI f x (regBits y ++ fn : BitVec 8) := rfl
  rw [this, h2]; omega

/-! ### Fields of a word built in a format: what was put in comes out -/

@[simp] theorem familyField_formatA (f : BitVec 4) (nnn : Addr12) : familyField (formatA f nnn) = f :=
  BitVec.eq_of_toNat_eq (by rw [familyField_toNat, formatA_toNat]; omega)

@[simp] theorem nnnField_formatA (f : BitVec 4) (nnn : Addr12) : nnnField (formatA f nnn) = nnn :=
  BitVec.eq_of_toNat_eq (by rw [nnnField_toNat, formatA_toNat]; omega)

@[simp] theorem familyField_formatI (f : BitVec 4) (x : Reg) (nn : Byte) : familyField (formatI f x nn) = f :=
  BitVec.eq_of_toNat_eq (by rw [familyField_toNat, formatI_toNat]; omega)

@[simp] theorem xField_formatI (f : BitVec 4) (x : Reg) (nn : Byte) : xField (formatI f x nn) = x :=
  Fin.ext (by rw [xField_val, formatI_toNat]; omega)

@[simp] theorem nnField_formatI (f : BitVec 4) (x : Reg) (nn : Byte) : nnField (formatI f x nn) = nn :=
  BitVec.eq_of_toNat_eq (by rw [nnField_toNat, formatI_toNat]; omega)

@[simp] theorem familyField_formatR (f : BitVec 4) (x y : Reg) (fn : BitVec 4) : familyField (formatR f x y fn) = f :=
  BitVec.eq_of_toNat_eq (by rw [familyField_toNat, formatR_toNat]; omega)

@[simp] theorem xField_formatR (f : BitVec 4) (x y : Reg) (fn : BitVec 4) : xField (formatR f x y fn) = x :=
  Fin.ext (by rw [xField_val, formatR_toNat]; omega)

@[simp] theorem yField_formatR (f : BitVec 4) (x y : Reg) (fn : BitVec 4) : yField (formatR f x y fn) = y :=
  Fin.ext (by rw [yField_val, formatR_toNat]; omega)

@[simp] theorem nField_formatR (f : BitVec 4) (x y : Reg) (fn : BitVec 4) : nField (formatR f x y fn) = fn :=
  BitVec.eq_of_toNat_eq (by rw [nField_toNat, formatR_toNat]; omega)

/-! ### A match on a field, decided by the number the field holds -/

theorem bitVec_eq_of_toNat {w : Nat} {a : BitVec w} {n : Nat} (h : a.toNat = n) (hn : n < 2 ^ w) : a = BitVec.ofNat w n :=
  BitVec.eq_of_toNat_eq (by rw [h, BitVec.toNat_ofNat, Nat.mod_eq_of_lt hn])

end Sys2Proof
end

