-- ==== Sys2Proof/Laws/Memory.lean ====
section
/-! SUPPORT. The laws of memory (rule R67): a read after a write, and that every memory operation keeps the canonical
form of the list. -/

namespace Sys2Proof.Machine

variable {font : Font}

/-- Every address of the list is at least `lo`. -/
theorem wfFrom_mono {lo lo' : Nat} (h : lo' ≤ lo) : ∀ {m : Memory}, Memory.wfFrom font lo m = true → Memory.wfFrom font lo' m = true
  | [], _ => rfl
  | (a, b) :: rest, hm => by
    simp only [Memory.wfFrom, Bool.and_eq_true, decide_eq_true_eq] at hm ⊢
    exact ⟨⟨⟨by omega, hm.1.1.2⟩, hm.1.2⟩, hm.2⟩

/-- Below its first possible address a canonical list holds nothing: the address reads as unlisted. -/
theorem read_of_lt_wfFrom {lo a : Nat} (h : a < lo) : ∀ {m : Memory}, Memory.wfFrom font lo m = true → Memory.read font m a = Memory.unlisted font a
  | [], _ => rfl
  | (a', b') :: rest, hm => by
    simp only [Memory.wfFrom, Bool.and_eq_true, decide_eq_true_eq] at hm
    have hne : a ≠ a' := by omega
    simp only [Memory.read, hne, if_false]
    exact read_of_lt_wfFrom (by omega) hm.2

theorem read_cell (a a' : Nat) (b : Byte) (rest : Memory) (h : Memory.read font rest a = Memory.unlisted font a) :
    Memory.read font (Memory.cell font a b rest) a' = if a' = a then b else Memory.read font rest a' := by
  unfold Memory.cell
  split
  · next hb =>
    split
    · next he => rw [he, h, hb]
    · rfl
  · rfl

/-- MemRead after MemWrite on a canonical list: the byte written at its address, every other byte as before (R67). -/
theorem read_write {lo : Nat} (a a' : Nat) (b : Byte) : ∀ {m : Memory}, Memory.wfFrom font lo m = true →
    Memory.read font (Memory.write font m a b) a' = if a' = a then b else Memory.read font m a'
  | [], _ => by
    rw [Memory.write, read_cell _ _ _ _ rfl]
  | (c, d) :: rest, hm => by
    have hm' := hm
    simp only [Memory.wfFrom, Bool.and_eq_true, decide_eq_true_eq] at hm
    rw [Memory.write]
    split
    · next hlt =>
      refine read_cell _ _ _ _ (read_of_lt_wfFrom hlt (m := (c, d) :: rest) ?_)
      simp only [Memory.wfFrom, Bool.and_eq_true, decide_eq_true_eq]
      exact ⟨⟨⟨le_refl _, hm.1.1.2⟩, hm.1.2⟩, hm.2⟩
    · split
      · next heq =>
        subst heq
        rw [read_cell _ _ _ _ (read_of_lt_wfFrom (Nat.lt_succ_self _) hm.2)]
        split
        · rfl
        · next hne => simp [Memory.read, hne]
      · next hne =>
        simp only [Memory.read]
        split
        · next he => subst he; simp [Ne.symm hne]
        · exact read_write a a' b hm.2

theorem read_write_same {m : Memory} (h : Memory.wf font m = true) (a : Nat) (b : Byte) :
    Memory.read font (Memory.write font m a b) a = b := by simp [read_write a a b h]

/-- MemWrite leaves every other byte alone, whatever the list (R67). -/
theorem read_write_other {a a' : Nat} (hne : a' ≠ a) (b : Byte) : ∀ m : Memory,
    Memory.read font (Memory.write font m a b) a' = Memory.read font m a'
  | [] => by unfold Memory.write Memory.cell; split <;> simp [Memory.read, hne]
  | (c, d) :: rest => by
    unfold Memory.write Memory.cell
    split
    · split <;> simp [Memory.read, hne]
    · split
      · next he => subst he; split <;> simp [Memory.read, hne]
      · simp [Memory.read, read_write_other hne b rest]

theorem wfFrom_cell {lo a : Nat} {b : Byte} {rest : Memory} (hlo : lo ≤ a) (ha : a ≤ 0xFFF)
    (h : Memory.wfFrom font (a + 1) rest = true) : Memory.wfFrom font lo (Memory.cell font a b rest) = true := by
  unfold Memory.cell
  split
  · exact wfFrom_mono (by omega) h
  · next hb => simp [Memory.wfFrom, hlo, ha, hb, h]

/-- MemWrite inside the address space keeps the canonical form. -/
theorem wfFrom_write {lo a : Nat} (b : Byte) (hlo : lo ≤ a) (ha : a ≤ 0xFFF) : ∀ {m : Memory},
    Memory.wfFrom font lo m = true → Memory.wfFrom font lo (Memory.write font m a b) = true
  | [], _ => by rw [Memory.write]; exact wfFrom_cell hlo ha rfl
  | (c, d) :: rest, hm => by
    simp only [Memory.wfFrom, Bool.and_eq_true, decide_eq_true_eq] at hm
    rw [Memory.write]
    split
    · refine wfFrom_cell hlo ha ?_
      simp only [Memory.wfFrom, Bool.and_eq_true, decide_eq_true_eq]
      exact ⟨⟨⟨by omega, hm.1.1.2⟩, hm.1.2⟩, hm.2⟩
    · split
      · next heq => subst heq; exact wfFrom_cell hlo ha hm.2
      · simp only [Memory.wfFrom, Bool.and_eq_true, decide_eq_true_eq]
        exact ⟨hm.1, wfFrom_write b (by omega) ha hm.2⟩

theorem wf_write {m : Memory} (h : Memory.wf font m = true) {a : Nat} (ha : a ≤ 0xFFF) (b : Byte) :
    Memory.wf font (Memory.write font m a b) = true := wfFrom_write b (Nat.zero_le _) ha h

/-- A block write inside the address space keeps the canonical form. -/
theorem wf_writeBytes : ∀ (bs : List Byte) {m : Memory} {a : Nat}, Memory.wf font m = true → a + bs.length ≤ 0x1000 →
    Memory.wf font (Memory.writeBytes font m a bs) = true
  | [], _, _, h, _ => h
  | b :: bs, m, a, h, hlen => by
    simp only [List.length_cons] at hlen
    exact wf_writeBytes bs (wf_write h (by omega) b) (by omega)

/-- A block write leaves every byte outside the block alone, whatever the list. -/
theorem read_writeBytes_other : ∀ (bs : List Byte) (m : Memory) (a a' : Nat), a' < a ∨ a + bs.length ≤ a' →
    Memory.read font (Memory.writeBytes font m a bs) a' = Memory.read font m a'
  | [], _, _, _, _ => rfl
  | b :: bs, m, a, a', h => by
    simp only [List.length_cons] at h
    rw [Memory.writeBytes, read_writeBytes_other bs _ _ _ (by omega), read_write_other (by omega)]

/-- A block write inside the address space reads back: the bytes written inside the block, every other byte as before. -/
theorem read_writeBytes : ∀ (bs : List Byte) {m : Memory} {a : Nat} (a' : Nat), Memory.wf font m = true →
    a + bs.length ≤ 0x1000 →
    Memory.read font (Memory.writeBytes font m a bs) a' =
      if h : a ≤ a' ∧ a' < a + bs.length then bs[a' - a]'(by omega) else Memory.read font m a'
  | [], m, a, a', _, _ => by
    have : ¬ (a ≤ a' ∧ a' < a) := by omega
    simp [Memory.writeBytes, this]
  | b :: bs, m, a, a', h, hlen => by
    simp only [List.length_cons] at hlen
    rw [Memory.writeBytes, read_writeBytes bs a' (wf_write h (by omega) b) (by omega)]
    by_cases h1 : a + 1 ≤ a' ∧ a' < a + 1 + bs.length
    · have h2 : a ≤ a' ∧ a' < a + (b :: bs).length := by simp; omega
      have h3 : a' - a = (a' - (a + 1)) + 1 := by omega
      rw [dif_pos h1, dif_pos h2]
      simp only [h3, List.getElem_cons_succ]
    · rw [dif_neg h1, read_write a a' b h]
      by_cases h4 : a' = a
      · subst h4
        simp
      · have h5 : ¬ (a ≤ a' ∧ a' < a + (b :: bs).length) := by simp; omega
        rw [dif_neg h5, if_neg h4]

/-! ### The memory of a state -/

theorem memByte_eq (s : State) (a : Nat) : s.memByte a = Memory.read s.font s.mem a := rfl

/-- The memory after reset is canonical, whatever the font. -/
theorem resetWith_memWf (font : Font) : (State.resetWith font).memWf = true := rfl

/-- The memory after reset: FONT, and 0 above it (R42). -/
theorem memByte_resetWith (font : Font) (a : Nat) : (State.resetWith font).memByte a = font.resetByte a := rfl

/-- The bytes `FONT[0..79]` are what `reset()` installs at 0x000..0x04F (R35). -/
theorem resetByte_of_lt (font : Font) {a : Nat} (h : a < 80) : font.resetByte a = font.get ⟨a, h⟩ := dif_pos h

theorem resetByte_of_ge (font : Font) {a : Nat} (h : 80 ≤ a) : font.resetByte a = 0#8 := dif_neg (by omega)

/-- A block write inside the address space keeps the canonical form. -/
theorem memWf_storeBytes {s : State} {a : Nat} {bs : List Byte} (h : s.memWf = true) (hlen : a + bs.length ≤ 0x1000) :
    (s.storeBytes a bs).memWf = true := wf_writeBytes bs h hlen

/-- A block write leaves every byte outside the block alone. -/
theorem memByte_storeBytes_other (s : State) {a a' : Nat} {bs : List Byte} (h : a' < a ∨ a + bs.length ≤ a') :
    (s.storeBytes a bs).memByte a' = s.memByte a' := read_writeBytes_other bs s.mem a a' h

/-- A block write inside the address space reads back. -/
theorem memByte_storeBytes {s : State} {a : Nat} {bs : List Byte} (a' : Nat) (h : s.memWf = true)
    (hlen : a + bs.length ≤ 0x1000) :
    (s.storeBytes a bs).memByte a' = if h : a ≤ a' ∧ a' < a + bs.length then bs[a' - a]'(by omega) else s.memByte a' :=
  read_writeBytes bs a' h hlen

/-- Two states with the same font and the same list read the same bytes. -/
theorem memByte_congr {s t : State} (hf : t.font = s.font) (hm : t.mem = s.mem) (a : Nat) : t.memByte a = s.memByte a := by
  simp [memByte_eq, hf, hm]

@[simp] theorem memByte_setPc (s : State) (w : Word) (a : Nat) : (s.setPc w).memByte a = s.memByte a := rfl
@[simp] theorem memByte_setRun (s : State) (r : Run) (a : Nat) : (s.setRun r).memByte a = s.memByte a := rfl

end Sys2Proof.Machine
end

