-- ==== Sys2Proof/Laws/State.lean ====
section
/-! SUPPORT. One lemma per field of State per update of State, true by rfl: no proof unfolds a record update. -/

namespace Sys2Proof.Machine

variable (s : State)


/-! ### setV -/

@[simp] theorem State.setV_mem (x : Reg) (b : Byte) : (s.setV x b).mem = s.mem := rfl
@[simp] theorem State.setV_V (x : Reg) (b : Byte) : (s.setV x b).V = s.V.set x.val b x.isLt := rfl
@[simp] theorem State.setV_I (x : Reg) (b : Byte) : (s.setV x b).I = s.I := rfl
@[simp] theorem State.setV_pc (x : Reg) (b : Byte) : (s.setV x b).pc = s.pc := rfl
@[simp] theorem State.setV_stack (x : Reg) (b : Byte) : (s.setV x b).stack = s.stack := rfl
@[simp] theorem State.setV_sp (x : Reg) (b : Byte) : (s.setV x b).sp = s.sp := rfl
@[simp] theorem State.setV_DT (x : Reg) (b : Byte) : (s.setV x b).DT = s.DT := rfl
@[simp] theorem State.setV_ST (x : Reg) (b : Byte) : (s.setV x b).ST = s.ST := rfl
@[simp] theorem State.setV_fb (x : Reg) (b : Byte) : (s.setV x b).fb = s.fb := rfl
@[simp] theorem State.setV_key (x : Reg) (b : Byte) : (s.setV x b).key = s.key := rfl
@[simp] theorem State.setV_run (x : Reg) (b : Byte) : (s.setV x b).run = s.run := rfl
@[simp] theorem State.setV_frameDirty (x : Reg) (b : Byte) : (s.setV x b).frameDirty = s.frameDirty := rfl
@[simp] theorem State.setV_draws (x : Reg) (b : Byte) : (s.setV x b).draws = s.draws := rfl
@[simp] theorem State.setV_font (x : Reg) (b : Byte) : (s.setV x b).font = s.font := rfl

/-! ### setI -/

@[simp] theorem State.setI_mem (w : Word) : (s.setI w).mem = s.mem := rfl
@[simp] theorem State.setI_V (w : Word) : (s.setI w).V = s.V := rfl
@[simp] theorem State.setI_I (w : Word) : (s.setI w).I = w := rfl
@[simp] theorem State.setI_pc (w : Word) : (s.setI w).pc = s.pc := rfl
@[simp] theorem State.setI_stack (w : Word) : (s.setI w).stack = s.stack := rfl
@[simp] theorem State.setI_sp (w : Word) : (s.setI w).sp = s.sp := rfl
@[simp] theorem State.setI_DT (w : Word) : (s.setI w).DT = s.DT := rfl
@[simp] theorem State.setI_ST (w : Word) : (s.setI w).ST = s.ST := rfl
@[simp] theorem State.setI_fb (w : Word) : (s.setI w).fb = s.fb := rfl
@[simp] theorem State.setI_key (w : Word) : (s.setI w).key = s.key := rfl
@[simp] theorem State.setI_run (w : Word) : (s.setI w).run = s.run := rfl
@[simp] theorem State.setI_frameDirty (w : Word) : (s.setI w).frameDirty = s.frameDirty := rfl
@[simp] theorem State.setI_draws (w : Word) : (s.setI w).draws = s.draws := rfl
@[simp] theorem State.setI_font (w : Word) : (s.setI w).font = s.font := rfl

/-! ### setPc -/

@[simp] theorem State.setPc_mem (w : Word) : (s.setPc w).mem = s.mem := rfl
@[simp] theorem State.setPc_V (w : Word) : (s.setPc w).V = s.V := rfl
@[simp] theorem State.setPc_I (w : Word) : (s.setPc w).I = s.I := rfl
@[simp] theorem State.setPc_pc (w : Word) : (s.setPc w).pc = w := rfl
@[simp] theorem State.setPc_stack (w : Word) : (s.setPc w).stack = s.stack := rfl
@[simp] theorem State.setPc_sp (w : Word) : (s.setPc w).sp = s.sp := rfl
@[simp] theorem State.setPc_DT (w : Word) : (s.setPc w).DT = s.DT := rfl
@[simp] theorem State.setPc_ST (w : Word) : (s.setPc w).ST = s.ST := rfl
@[simp] theorem State.setPc_fb (w : Word) : (s.setPc w).fb = s.fb := rfl
@[simp] theorem State.setPc_key (w : Word) : (s.setPc w).key = s.key := rfl
@[simp] theorem State.setPc_run (w : Word) : (s.setPc w).run = s.run := rfl
@[simp] theorem State.setPc_frameDirty (w : Word) : (s.setPc w).frameDirty = s.frameDirty := rfl
@[simp] theorem State.setPc_draws (w : Word) : (s.setPc w).draws = s.draws := rfl
@[simp] theorem State.setPc_font (w : Word) : (s.setPc w).font = s.font := rfl

/-! ### push -/

@[simp] theorem State.push_mem (h : s.sp.val < 16) (w : Word) : (s.push h w).mem = s.mem := rfl
@[simp] theorem State.push_V (h : s.sp.val < 16) (w : Word) : (s.push h w).V = s.V := rfl
@[simp] theorem State.push_I (h : s.sp.val < 16) (w : Word) : (s.push h w).I = s.I := rfl
@[simp] theorem State.push_pc (h : s.sp.val < 16) (w : Word) : (s.push h w).pc = s.pc := rfl
@[simp] theorem State.push_stack (h : s.sp.val < 16) (w : Word) : (s.push h w).stack = s.stack.set s.sp.val w h := rfl
@[simp] theorem State.push_sp (h : s.sp.val < 16) (w : Word) : (s.push h w).sp = ⟨s.sp.val + 1, by omega⟩ := rfl
@[simp] theorem State.push_DT (h : s.sp.val < 16) (w : Word) : (s.push h w).DT = s.DT := rfl
@[simp] theorem State.push_ST (h : s.sp.val < 16) (w : Word) : (s.push h w).ST = s.ST := rfl
@[simp] theorem State.push_fb (h : s.sp.val < 16) (w : Word) : (s.push h w).fb = s.fb := rfl
@[simp] theorem State.push_key (h : s.sp.val < 16) (w : Word) : (s.push h w).key = s.key := rfl
@[simp] theorem State.push_run (h : s.sp.val < 16) (w : Word) : (s.push h w).run = s.run := rfl
@[simp] theorem State.push_frameDirty (h : s.sp.val < 16) (w : Word) : (s.push h w).frameDirty = s.frameDirty := rfl
@[simp] theorem State.push_draws (h : s.sp.val < 16) (w : Word) : (s.push h w).draws = s.draws := rfl
@[simp] theorem State.push_font (h : s.sp.val < 16) (w : Word) : (s.push h w).font = s.font := rfl

/-! ### pop -/

@[simp] theorem State.pop_mem (h : 0 < s.sp.val) : (s.pop h).mem = s.mem := rfl
@[simp] theorem State.pop_V (h : 0 < s.sp.val) : (s.pop h).V = s.V := rfl
@[simp] theorem State.pop_I (h : 0 < s.sp.val) : (s.pop h).I = s.I := rfl
@[simp] theorem State.pop_pc (h : 0 < s.sp.val) : (s.pop h).pc = s.pc := rfl
@[simp] theorem State.pop_stack (h : 0 < s.sp.val) : (s.pop h).stack = s.stack := rfl
@[simp] theorem State.pop_sp (h : 0 < s.sp.val) : (s.pop h).sp = ⟨s.sp.val - 1, by have := s.sp.isLt; omega⟩ := rfl
@[simp] theorem State.pop_DT (h : 0 < s.sp.val) : (s.pop h).DT = s.DT := rfl
@[simp] theorem State.pop_ST (h : 0 < s.sp.val) : (s.pop h).ST = s.ST := rfl
@[simp] theorem State.pop_fb (h : 0 < s.sp.val) : (s.pop h).fb = s.fb := rfl
@[simp] theorem State.pop_key (h : 0 < s.sp.val) : (s.pop h).key = s.key := rfl
@[simp] theorem State.pop_run (h : 0 < s.sp.val) : (s.pop h).run = s.run := rfl
@[simp] theorem State.pop_frameDirty (h : 0 < s.sp.val) : (s.pop h).frameDirty = s.frameDirty := rfl
@[simp] theorem State.pop_draws (h : 0 < s.sp.val) : (s.pop h).draws = s.draws := rfl
@[simp] theorem State.pop_font (h : 0 < s.sp.val) : (s.pop h).font = s.font := rfl

/-! ### setDT -/

@[simp] theorem State.setDT_mem (b : Byte) : (s.setDT b).mem = s.mem := rfl
@[simp] theorem State.setDT_V (b : Byte) : (s.setDT b).V = s.V := rfl
@[simp] theorem State.setDT_I (b : Byte) : (s.setDT b).I = s.I := rfl
@[simp] theorem State.setDT_pc (b : Byte) : (s.setDT b).pc = s.pc := rfl
@[simp] theorem State.setDT_stack (b : Byte) : (s.setDT b).stack = s.stack := rfl
@[simp] theorem State.setDT_sp (b : Byte) : (s.setDT b).sp = s.sp := rfl
@[simp] theorem State.setDT_DT (b : Byte) : (s.setDT b).DT = b := rfl
@[simp] theorem State.setDT_ST (b : Byte) : (s.setDT b).ST = s.ST := rfl
@[simp] theorem State.setDT_fb (b : Byte) : (s.setDT b).fb = s.fb := rfl
@[simp] theorem State.setDT_key (b : Byte) : (s.setDT b).key = s.key := rfl
@[simp] theorem State.setDT_run (b : Byte) : (s.setDT b).run = s.run := rfl
@[simp] theorem State.setDT_frameDirty (b : Byte) : (s.setDT b).frameDirty = s.frameDirty := rfl
@[simp] theorem State.setDT_draws (b : Byte) : (s.setDT b).draws = s.draws := rfl
@[simp] theorem State.setDT_font (b : Byte) : (s.setDT b).font = s.font := rfl

/-! ### setST -/

@[simp] theorem State.setST_mem (b : Byte) : (s.setST b).mem = s.mem := rfl
@[simp] theorem State.setST_V (b : Byte) : (s.setST b).V = s.V := rfl
@[simp] theorem State.setST_I (b : Byte) : (s.setST b).I = s.I := rfl
@[simp] theorem State.setST_pc (b : Byte) : (s.setST b).pc = s.pc := rfl
@[simp] theorem State.setST_stack (b : Byte) : (s.setST b).stack = s.stack := rfl
@[simp] theorem State.setST_sp (b : Byte) : (s.setST b).sp = s.sp := rfl
@[simp] theorem State.setST_DT (b : Byte) : (s.setST b).DT = s.DT := rfl
@[simp] theorem State.setST_ST (b : Byte) : (s.setST b).ST = b := rfl
@[simp] theorem State.setST_fb (b : Byte) : (s.setST b).fb = s.fb := rfl
@[simp] theorem State.setST_key (b : Byte) : (s.setST b).key = s.key := rfl
@[simp] theorem State.setST_run (b : Byte) : (s.setST b).run = s.run := rfl
@[simp] theorem State.setST_frameDirty (b : Byte) : (s.setST b).frameDirty = s.frameDirty := rfl
@[simp] theorem State.setST_draws (b : Byte) : (s.setST b).draws = s.draws := rfl
@[simp] theorem State.setST_font (b : Byte) : (s.setST b).font = s.font := rfl

/-! ### storeBytes -/

@[simp] theorem State.storeBytes_mem (a : Nat) (bs : List Byte) : (s.storeBytes a bs).mem = Memory.writeBytes s.font s.mem a bs := rfl
@[simp] theorem State.storeBytes_V (a : Nat) (bs : List Byte) : (s.storeBytes a bs).V = s.V := rfl
@[simp] theorem State.storeBytes_I (a : Nat) (bs : List Byte) : (s.storeBytes a bs).I = s.I := rfl
@[simp] theorem State.storeBytes_pc (a : Nat) (bs : List Byte) : (s.storeBytes a bs).pc = s.pc := rfl
@[simp] theorem State.storeBytes_stack (a : Nat) (bs : List Byte) : (s.storeBytes a bs).stack = s.stack := rfl
@[simp] theorem State.storeBytes_sp (a : Nat) (bs : List Byte) : (s.storeBytes a bs).sp = s.sp := rfl
@[simp] theorem State.storeBytes_DT (a : Nat) (bs : List Byte) : (s.storeBytes a bs).DT = s.DT := rfl
@[simp] theorem State.storeBytes_ST (a : Nat) (bs : List Byte) : (s.storeBytes a bs).ST = s.ST := rfl
@[simp] theorem State.storeBytes_fb (a : Nat) (bs : List Byte) : (s.storeBytes a bs).fb = s.fb := rfl
@[simp] theorem State.storeBytes_key (a : Nat) (bs : List Byte) : (s.storeBytes a bs).key = s.key := rfl
@[simp] theorem State.storeBytes_run (a : Nat) (bs : List Byte) : (s.storeBytes a bs).run = s.run := rfl
@[simp] theorem State.storeBytes_frameDirty (a : Nat) (bs : List Byte) : (s.storeBytes a bs).frameDirty = s.frameDirty := rfl
@[simp] theorem State.storeBytes_draws (a : Nat) (bs : List Byte) : (s.storeBytes a bs).draws = s.draws := rfl
@[simp] theorem State.storeBytes_font (a : Nat) (bs : List Byte) : (s.storeBytes a bs).font = s.font := rfl

/-! ### show -/

@[simp] theorem State.show_mem (fb : Framebuffer) : (s.show fb).mem = s.mem := rfl
@[simp] theorem State.show_V (fb : Framebuffer) : (s.show fb).V = s.V := rfl
@[simp] theorem State.show_I (fb : Framebuffer) : (s.show fb).I = s.I := rfl
@[simp] theorem State.show_pc (fb : Framebuffer) : (s.show fb).pc = s.pc := rfl
@[simp] theorem State.show_stack (fb : Framebuffer) : (s.show fb).stack = s.stack := rfl
@[simp] theorem State.show_sp (fb : Framebuffer) : (s.show fb).sp = s.sp := rfl
@[simp] theorem State.show_DT (fb : Framebuffer) : (s.show fb).DT = s.DT := rfl
@[simp] theorem State.show_ST (fb : Framebuffer) : (s.show fb).ST = s.ST := rfl
@[simp] theorem State.show_fb (fb : Framebuffer) : (s.show fb).fb = fb := rfl
@[simp] theorem State.show_key (fb : Framebuffer) : (s.show fb).key = s.key := rfl
@[simp] theorem State.show_run (fb : Framebuffer) : (s.show fb).run = s.run := rfl
@[simp] theorem State.show_frameDirty (fb : Framebuffer) : (s.show fb).frameDirty = true := rfl
@[simp] theorem State.show_draws (fb : Framebuffer) : (s.show fb).draws = s.draws := rfl
@[simp] theorem State.show_font (fb : Framebuffer) : (s.show fb).font = s.font := rfl

/-! ### setRun -/

@[simp] theorem State.setRun_mem (r : Run) : (s.setRun r).mem = s.mem := rfl
@[simp] theorem State.setRun_V (r : Run) : (s.setRun r).V = s.V := rfl
@[simp] theorem State.setRun_I (r : Run) : (s.setRun r).I = s.I := rfl
@[simp] theorem State.setRun_pc (r : Run) : (s.setRun r).pc = s.pc := rfl
@[simp] theorem State.setRun_stack (r : Run) : (s.setRun r).stack = s.stack := rfl
@[simp] theorem State.setRun_sp (r : Run) : (s.setRun r).sp = s.sp := rfl
@[simp] theorem State.setRun_DT (r : Run) : (s.setRun r).DT = s.DT := rfl
@[simp] theorem State.setRun_ST (r : Run) : (s.setRun r).ST = s.ST := rfl
@[simp] theorem State.setRun_fb (r : Run) : (s.setRun r).fb = s.fb := rfl
@[simp] theorem State.setRun_key (r : Run) : (s.setRun r).key = s.key := rfl
@[simp] theorem State.setRun_run (r : Run) : (s.setRun r).run = r := rfl
@[simp] theorem State.setRun_frameDirty (r : Run) : (s.setRun r).frameDirty = s.frameDirty := rfl
@[simp] theorem State.setRun_draws (r : Run) : (s.setRun r).draws = s.draws := rfl
@[simp] theorem State.setRun_font (r : Run) : (s.setRun r).font = s.font := rfl

/-! ### loadRegsFrom -/

@[simp] theorem State.loadRegsFrom_mem (x : Reg) (a : Nat) : (s.loadRegsFrom x a).mem = s.mem := rfl
@[simp] theorem State.loadRegsFrom_I (x : Reg) (a : Nat) : (s.loadRegsFrom x a).I = s.I := rfl
@[simp] theorem State.loadRegsFrom_pc (x : Reg) (a : Nat) : (s.loadRegsFrom x a).pc = s.pc := rfl
@[simp] theorem State.loadRegsFrom_stack (x : Reg) (a : Nat) : (s.loadRegsFrom x a).stack = s.stack := rfl
@[simp] theorem State.loadRegsFrom_sp (x : Reg) (a : Nat) : (s.loadRegsFrom x a).sp = s.sp := rfl
@[simp] theorem State.loadRegsFrom_DT (x : Reg) (a : Nat) : (s.loadRegsFrom x a).DT = s.DT := rfl
@[simp] theorem State.loadRegsFrom_ST (x : Reg) (a : Nat) : (s.loadRegsFrom x a).ST = s.ST := rfl
@[simp] theorem State.loadRegsFrom_fb (x : Reg) (a : Nat) : (s.loadRegsFrom x a).fb = s.fb := rfl
@[simp] theorem State.loadRegsFrom_key (x : Reg) (a : Nat) : (s.loadRegsFrom x a).key = s.key := rfl
@[simp] theorem State.loadRegsFrom_run (x : Reg) (a : Nat) : (s.loadRegsFrom x a).run = s.run := rfl
@[simp] theorem State.loadRegsFrom_frameDirty (x : Reg) (a : Nat) : (s.loadRegsFrom x a).frameDirty = s.frameDirty := rfl
@[simp] theorem State.loadRegsFrom_draws (x : Reg) (a : Nat) : (s.loadRegsFrom x a).draws = s.draws := rfl
@[simp] theorem State.loadRegsFrom_font (x : Reg) (a : Nat) : (s.loadRegsFrom x a).font = s.font := rfl

/-! ### consumeDraw -/

@[simp] theorem State.consumeDraw_mem : (s.consumeDraw).mem = s.mem := rfl
@[simp] theorem State.consumeDraw_V : (s.consumeDraw).V = s.V := rfl
@[simp] theorem State.consumeDraw_I : (s.consumeDraw).I = s.I := rfl
@[simp] theorem State.consumeDraw_pc : (s.consumeDraw).pc = s.pc := rfl
@[simp] theorem State.consumeDraw_stack : (s.consumeDraw).stack = s.stack := rfl
@[simp] theorem State.consumeDraw_sp : (s.consumeDraw).sp = s.sp := rfl
@[simp] theorem State.consumeDraw_DT : (s.consumeDraw).DT = s.DT := rfl
@[simp] theorem State.consumeDraw_ST : (s.consumeDraw).ST = s.ST := rfl
@[simp] theorem State.consumeDraw_fb : (s.consumeDraw).fb = s.fb := rfl
@[simp] theorem State.consumeDraw_key : (s.consumeDraw).key = s.key := rfl
@[simp] theorem State.consumeDraw_run : (s.consumeDraw).run = s.run := rfl
@[simp] theorem State.consumeDraw_frameDirty : (s.consumeDraw).frameDirty = s.frameDirty := rfl
@[simp] theorem State.consumeDraw_draws : (s.consumeDraw).draws = s.draws + 1 := rfl
@[simp] theorem State.consumeDraw_font : (s.consumeDraw).font = s.font := rfl

/-! ### enterFault -/

@[simp] theorem State.enterFault_mem (c : Cause) (info : Word) : (s.enterFault c info).mem = s.mem := rfl
@[simp] theorem State.enterFault_V (c : Cause) (info : Word) : (s.enterFault c info).V = s.V := rfl
@[simp] theorem State.enterFault_I (c : Cause) (info : Word) : (s.enterFault c info).I = s.I := rfl
@[simp] theorem State.enterFault_pc (c : Cause) (info : Word) : (s.enterFault c info).pc = s.pc := rfl
@[simp] theorem State.enterFault_stack (c : Cause) (info : Word) : (s.enterFault c info).stack = s.stack := rfl
@[simp] theorem State.enterFault_sp (c : Cause) (info : Word) : (s.enterFault c info).sp = s.sp := rfl
@[simp] theorem State.enterFault_DT (c : Cause) (info : Word) : (s.enterFault c info).DT = s.DT := rfl
@[simp] theorem State.enterFault_ST (c : Cause) (info : Word) : (s.enterFault c info).ST = s.ST := rfl
@[simp] theorem State.enterFault_fb (c : Cause) (info : Word) : (s.enterFault c info).fb = s.fb := rfl
@[simp] theorem State.enterFault_key (c : Cause) (info : Word) : (s.enterFault c info).key = s.key := rfl
@[simp] theorem State.enterFault_run (c : Cause) (info : Word) : (s.enterFault c info).run = .faulted c s.pc info := rfl
@[simp] theorem State.enterFault_frameDirty (c : Cause) (info : Word) : (s.enterFault c info).frameDirty = s.frameDirty := rfl
@[simp] theorem State.enterFault_draws (c : Cause) (info : Word) : (s.enterFault c info).draws = s.draws := rfl
@[simp] theorem State.enterFault_font (c : Cause) (info : Word) : (s.enterFault c info).font = s.font := rfl

/-! ### setFlag -/

@[simp] theorem State.setFlag_mem (f : Bool) : (s.setFlag f).mem = s.mem := rfl
@[simp] theorem State.setFlag_V (f : Bool) : (s.setFlag f).V = s.V.set Reg.F.val (flagByte f) Reg.F.isLt := rfl
@[simp] theorem State.setFlag_I (f : Bool) : (s.setFlag f).I = s.I := rfl
@[simp] theorem State.setFlag_pc (f : Bool) : (s.setFlag f).pc = s.pc := rfl
@[simp] theorem State.setFlag_stack (f : Bool) : (s.setFlag f).stack = s.stack := rfl
@[simp] theorem State.setFlag_sp (f : Bool) : (s.setFlag f).sp = s.sp := rfl
@[simp] theorem State.setFlag_DT (f : Bool) : (s.setFlag f).DT = s.DT := rfl
@[simp] theorem State.setFlag_ST (f : Bool) : (s.setFlag f).ST = s.ST := rfl
@[simp] theorem State.setFlag_fb (f : Bool) : (s.setFlag f).fb = s.fb := rfl
@[simp] theorem State.setFlag_key (f : Bool) : (s.setFlag f).key = s.key := rfl
@[simp] theorem State.setFlag_run (f : Bool) : (s.setFlag f).run = s.run := rfl
@[simp] theorem State.setFlag_frameDirty (f : Bool) : (s.setFlag f).frameDirty = s.frameDirty := rfl
@[simp] theorem State.setFlag_draws (f : Bool) : (s.setFlag f).draws = s.draws := rfl
@[simp] theorem State.setFlag_font (f : Bool) : (s.setFlag f).font = s.font := rfl

/-! ### setKey -/

@[simp] theorem State.setKey_mem (k : Fin 16) (p : Bool) : (s.setKey k p).mem = s.mem := rfl
@[simp] theorem State.setKey_V (k : Fin 16) (p : Bool) : (s.setKey k p).V = s.V := rfl
@[simp] theorem State.setKey_I (k : Fin 16) (p : Bool) : (s.setKey k p).I = s.I := rfl
@[simp] theorem State.setKey_pc (k : Fin 16) (p : Bool) : (s.setKey k p).pc = s.pc := rfl
@[simp] theorem State.setKey_stack (k : Fin 16) (p : Bool) : (s.setKey k p).stack = s.stack := rfl
@[simp] theorem State.setKey_sp (k : Fin 16) (p : Bool) : (s.setKey k p).sp = s.sp := rfl
@[simp] theorem State.setKey_DT (k : Fin 16) (p : Bool) : (s.setKey k p).DT = s.DT := rfl
@[simp] theorem State.setKey_ST (k : Fin 16) (p : Bool) : (s.setKey k p).ST = s.ST := rfl
@[simp] theorem State.setKey_fb (k : Fin 16) (p : Bool) : (s.setKey k p).fb = s.fb := rfl
@[simp] theorem State.setKey_key (k : Fin 16) (p : Bool) : (s.setKey k p).key = s.key.set k.val p k.isLt := rfl
@[simp] theorem State.setKey_run (k : Fin 16) (p : Bool) : (s.setKey k p).run = s.run := rfl
@[simp] theorem State.setKey_frameDirty (k : Fin 16) (p : Bool) : (s.setKey k p).frameDirty = s.frameDirty := rfl
@[simp] theorem State.setKey_draws (k : Fin 16) (p : Bool) : (s.setKey k p).draws = s.draws := rfl
@[simp] theorem State.setKey_font (k : Fin 16) (p : Bool) : (s.setKey k p).font = s.font := rfl

/-! ### acknowledgeFrame -/

@[simp] theorem State.acknowledgeFrame_mem : (s.acknowledgeFrame).mem = s.mem := rfl
@[simp] theorem State.acknowledgeFrame_V : (s.acknowledgeFrame).V = s.V := rfl
@[simp] theorem State.acknowledgeFrame_I : (s.acknowledgeFrame).I = s.I := rfl
@[simp] theorem State.acknowledgeFrame_pc : (s.acknowledgeFrame).pc = s.pc := rfl
@[simp] theorem State.acknowledgeFrame_stack : (s.acknowledgeFrame).stack = s.stack := rfl
@[simp] theorem State.acknowledgeFrame_sp : (s.acknowledgeFrame).sp = s.sp := rfl
@[simp] theorem State.acknowledgeFrame_DT : (s.acknowledgeFrame).DT = s.DT := rfl
@[simp] theorem State.acknowledgeFrame_ST : (s.acknowledgeFrame).ST = s.ST := rfl
@[simp] theorem State.acknowledgeFrame_fb : (s.acknowledgeFrame).fb = s.fb := rfl
@[simp] theorem State.acknowledgeFrame_key : (s.acknowledgeFrame).key = s.key := rfl
@[simp] theorem State.acknowledgeFrame_run : (s.acknowledgeFrame).run = s.run := rfl
@[simp] theorem State.acknowledgeFrame_frameDirty : (s.acknowledgeFrame).frameDirty = false := rfl
@[simp] theorem State.acknowledgeFrame_draws : (s.acknowledgeFrame).draws = s.draws := rfl
@[simp] theorem State.acknowledgeFrame_font : (s.acknowledgeFrame).font = s.font := rfl

end Sys2Proof.Machine
end

