-- ==== Sys2Proof/Laws/Registers.lean ====
section
/-! SUPPORT. Reading registers, stack slots and keys after a write (rules R10, R21, R28, R33), and the key scan. -/

namespace Sys2Proof.Machine

variable (s : State)

/-! ### Registers -/

theorem getV_eq (x : Reg) : s.getV x = s.V[x.val] := rfl

/-- A register reads what was written to it, and every other register as before. -/
theorem getV_setV (x r : Reg) (b : Byte) : (s.setV x b).getV r = if r = x then b else s.getV r := by
  simp only [getV_eq, State.setV_V, Vector.getElem_set, Fin.ext_iff, eq_comm]

@[simp] theorem getV_setV_same (x : Reg) (b : Byte) : (s.setV x b).getV x = b := by simp [getV_setV]

theorem getV_setV_ne {x r : Reg} (h : r ≠ x) (b : Byte) : (s.setV x b).getV r = s.getV r := by simp [getV_setV, h]

theorem getV_setFlag (r : Reg) (f : Bool) : (s.setFlag f).getV r = if r = Reg.F then flagByte f else s.getV r :=
  getV_setV s Reg.F r (flagByte f)

/-- Two states with the same register file read the same registers. -/
theorem getV_congr {s t : State} (h : t.V = s.V) (r : Reg) : t.getV r = s.getV r := by simp [getV_eq, h]

@[simp] theorem getV_setPc (w : Word) (r : Reg) : (s.setPc w).getV r = s.getV r := rfl
@[simp] theorem getV_setI (w : Word) (r : Reg) : (s.setI w).getV r = s.getV r := rfl
@[simp] theorem getV_setRun (q : Run) (r : Reg) : (s.setRun q).getV r = s.getV r := rfl
@[simp] theorem getV_storeBytes (a : Nat) (bs : List Byte) (r : Reg) : (s.storeBytes a bs).getV r = s.getV r := rfl
@[simp] theorem getV_show (fb : Framebuffer) (r : Reg) : (s.show fb).getV r = s.getV r := rfl
@[simp] theorem getV_consumeDraw (r : Reg) : s.consumeDraw.getV r = s.getV r := rfl

/-- The registers a block load leaves (R195). -/
theorem getV_loadRegsFrom (x r : Reg) (a : Nat) :
    (s.loadRegsFrom x a).getV r = if r.val ≤ x.val then s.memByte (a + r.val) else s.getV r := by
  simp [getV_eq, State.loadRegsFrom]

/-- The k-th byte of V[0..x] is Vk (R194). -/
theorem regsTo_getElem (x : Reg) (k : Nat) (hk : k < (s.regsTo x).length) :
    (s.regsTo x)[k] = s.getV ⟨k, by simp [State.regsTo] at hk; omega⟩ := by
  simp [State.regsTo, getV_eq]

@[simp] theorem regsTo_length (x : Reg) : (s.regsTo x).length = x.val + 1 := by
  simp [State.regsTo]

/-! ### Stack -/

theorem slot_eq (j : Fin 16) : s.slot j = s.stack[j.val] := rfl

/-- A push writes the slot at sp and no other (R142). -/
theorem slot_push (h : s.sp.val < 16) (w : Word) (j : Fin 16) :
    (s.push h w).slot j = if j.val = s.sp.val then w else s.slot j := by
  simp only [slot_eq, State.push_stack, Vector.getElem_set, eq_comm]

/-- A pop writes no slot (R140). -/
@[simp] theorem slot_pop (h : 0 < s.sp.val) (j : Fin 16) : (s.pop h).slot j = s.slot j := rfl

/-- The slot a return reads is the one below sp (R140). -/
theorem top_eq_slot (h : 0 < s.sp.val) (j : Fin 16) (hj : s.sp.val = j.val + 1) : s.top h = s.slot j := by
  have : (⟨s.sp.val - 1, by have := s.sp.isLt; omega⟩ : Fin 16) = j := Fin.ext (by simp [hj])
  simp [State.top, this]

/-! ### Keys -/

theorem key_setKey (k j : Fin 16) (p : Bool) : (s.setKey k p).key.get j = if j = k then p else s.key.get j := by
  simp only [State.setKey_key, Vector.get_eq_getElem, Vector.getElem_set, Fin.ext_iff, eq_comm]

/-- The scan finds no key exactly if none is down. -/
theorem lowestKey?_eq_none (key : Vector Bool 16) : lowestKey? key = none ↔ ∀ k : Fin 16, key.get k = false := by
  simp [lowestKey?, List.find?_eq_none, List.mem_finRange]

/-- The scan finds k exactly if k is down and every lower key is up (R231). -/
theorem lowestKey?_eq_some (key : Vector Bool 16) (k : Fin 16) :
    lowestKey? key = some k ↔ key.get k = true ∧ ∀ j, j < k → key.get j = false := by
  constructor
  · intro h
    refine ⟨by simpa using List.find?_some h, fun j hj => ?_⟩
    obtain ⟨as, bs, he, hn⟩ := (List.find?_eq_some_iff_append.mp h).2
    have hmem : j ∈ as ++ k :: bs := he ▸ List.mem_finRange j
    have hsort : (as ++ k :: bs).Pairwise (· < ·) := he ▸ List.pairwise_lt_finRange 16
    rcases List.mem_append.mp hmem with ha | hb
    · simpa using hn j ha
    · rcases List.mem_cons.mp hb with rfl | hb
      · exact absurd hj (lt_irrefl _)
      · exact absurd hj (not_lt.mpr (le_of_lt ((List.pairwise_cons.mp (List.pairwise_append.mp hsort).2.1).1 j hb)))
  · rintro ⟨hk, hlow⟩
    cases h : lowestKey? key with
    | none => simp [(lowestKey?_eq_none key).mp h k] at hk
    | some j =>
      have hj : key.get j = true := by simpa using List.find?_some h
      obtain ⟨as, bs, he, hn⟩ := (List.find?_eq_some_iff_append.mp h).2
      rcases lt_trichotomy j k with hlt | rfl | hgt
      · simp [hlow j hlt] at hj
      · rfl
      · have hmem : k ∈ as ++ j :: bs := he ▸ List.mem_finRange k
        have hsort : (as ++ j :: bs).Pairwise (· < ·) := he ▸ List.pairwise_lt_finRange 16
        rcases List.mem_append.mp hmem with ha | hb
        · exact absurd hk (by simpa using hn k ha)
        · rcases List.mem_cons.mp hb with rfl | hb
          · rfl
          · exact absurd hgt (not_lt.mpr (le_of_lt ((List.pairwise_cons.mp (List.pairwise_append.mp hsort).2.1).1 k hb)))

/-- A byte names a key exactly if it is at most 0xF (R227). -/
theorem keyIndex?_eq_some (b : Byte) (k : Fin 16) : keyIndex? b = some k ↔ k.val = b.toNat := by
  unfold keyIndex?
  split
  · simp [Fin.ext_iff, eq_comm]
  · simp; omega

theorem keyIndex?_eq_none (b : Byte) : keyIndex? b = none ↔ b.toNat > 0xF := by
  unfold keyIndex?
  split <;> simp <;> omega

end Sys2Proof.Machine
end

