-- ==== Sys2Proof/Laws/Ops.lean ====
section
/-! SUPPORT. What each shared operation can do, said once (rules R11, R64, R266): the write of pc, the skips, the data
block, the fault. The proofs of the instructions cite these and unfold nothing below them. -/

namespace Sys2Proof.Machine

/-! ### Fault entry -/

theorem raise_eq (s : State) (c : Cause) (info : Word) : raise s c info = .next { s with run := .faulted c s.pc info } := rfl

theorem raiseRange_eq (s : State) (t : Nat) :
    raiseRange s t = .next { s with run := .faulted .outOfRangeAddress s.pc (BitVec.ofNat 16 t) } := rfl

/-! ### The write of pc -/

/-- In range, the instruction's writes take effect and pc is the target. -/
theorem commit_of_le (s s' : State) {t : Nat} (h : t ≤ 0xFFF) : commit s s' t = .next (s'.setPc (BitVec.ofNat 16 t)) :=
  if_neg (Nat.not_lt.mpr h)

/-- Above 0xFFF, the instruction's writes are discarded. -/
theorem commit_of_gt (s s' : State) {t : Nat} (h : t > 0xFFF) :
    commit s s' t = .next { s with run := .faulted .outOfRangeAddress s.pc (BitVec.ofNat 16 t) } := if_pos h

/-- Everything the write of pc can do. -/
theorem commit_cases {s s' u : State} {t : Nat} (h : commit s s' t = .next u) :
    (t ≤ 0xFFF ∧ u = s'.setPc (BitVec.ofNat 16 t)) ∨
    (t > 0xFFF ∧ u = { s with run := .faulted .outOfRangeAddress s.pc (BitVec.ofNat 16 t) }) := by
  rcases Nat.lt_or_ge 0xFFF t with ht | ht
  · rw [commit_of_gt s s' ht] at h
    injection h with h
    exact .inr ⟨ht, h.symm⟩
  · rw [commit_of_le s s' ht] at h
    injection h with h
    exact .inl ⟨ht, h.symm⟩

theorem advance_of_le (k : Nat) (s s' : State) (h : s.pc.toNat + k ≤ 0xFFF) :
    advance k s s' = .next (s'.setPc (BitVec.ofNat 16 (s.pc.toNat + k))) := commit_of_le s s' h

theorem advance_of_gt (k : Nat) (s s' : State) (h : s.pc.toNat + k > 0xFFF) :
    advance k s s' = .next { s with run := .faulted .outOfRangeAddress s.pc (BitVec.ofNat 16 (s.pc.toNat + k)) } :=
  commit_of_gt s s' h

/-- Everything `advance` can do. -/
theorem advance_cases {k : Nat} {s s' u : State} (h : advance k s s' = .next u) :
    (s.pc.toNat + k ≤ 0xFFF ∧ u = s'.setPc (BitVec.ofNat 16 (s.pc.toNat + k))) ∨
    (s.pc.toNat + k > 0xFFF ∧ u = { s with run := .faulted .outOfRangeAddress s.pc (BitVec.ofNat 16 (s.pc.toNat + k)) }) :=
  commit_cases h

/-- A target in range is the number pc then holds. -/
theorem toNat_target {t : Nat} (h : t ≤ 0xFFF) : (BitVec.ofNat 16 t).toNat = t := by
  rw [BitVec.toNat_ofNat]; omega

theorem nnnAddress_toNat (nnn : Addr12) : (nnnAddress nnn).toNat = nnn.toNat := by
  simp [nnnAddress]; omega

/-- nnn is never above 0xFFF, so an absolute jump is always in range (R141). -/
theorem nnnAddress_le (nnn : Addr12) : (nnnAddress nnn).toNat ≤ 0xFFF := by
  rw [nnnAddress_toNat]; omega

/-! ### The data block -/

theorem blockFits_iff (s : State) (count : Nat) :
    s.blockFits count = true ↔ count = 0 ∨ s.I.toNat + (count - 1) ≤ 0xFFF := by
  exact decide_eq_true_iff

theorem withBlock_of_fits {s : State} {count : Nat} (h : s.blockFits count = true) (body : Result) :
    withBlock s count body = body := if_pos h

theorem withBlock_of_not_fits {s : State} {count : Nat} (h : ¬ s.blockFits count = true) (body : Result) :
    withBlock s count body = .next { s with run := .faulted .outOfRangeAddress s.pc 0x1000#16 } := if_neg h

/-- Everything the range check of a data block can do. -/
theorem withBlock_cases {s u : State} {count : Nat} {body : Result} (h : withBlock s count body = .next u) :
    (s.blockFits count = true ∧ body = .next u) ∨
    (¬ s.blockFits count = true ∧ u = { s with run := .faulted .outOfRangeAddress s.pc 0x1000#16 }) := by
  by_cases hf : s.blockFits count = true
  · exact .inl ⟨hf, by rwa [withBlock_of_fits hf] at h⟩
  · rw [withBlock_of_not_fits hf] at h
    injection h with h
    exact .inr ⟨hf, h.symm⟩

/-! ### Flags as bytes -/

@[simp] theorem flagByte_true : flagByte true = 1#8 := rfl
@[simp] theorem flagByte_false : flagByte false = 0#8 := rfl

theorem flagByte_toNat (f : Bool) : (flagByte f).toNat = if f then 1 else 0 := by cases f <;> rfl

end Sys2Proof.Machine
end

