-- ==== Sys2Proof/Laws/Display.lean ====
section
/-! SUPPORT. Pixels (rule R211): a toggle changes one pixel; the blank framebuffer. -/

namespace Sys2Proof.Machine

theorem pixel_blank (c : Fin 64) (r : Fin 32) : Framebuffer.pixel Framebuffer.blank c r = false := by
  simp [Framebuffer.pixel, Framebuffer.blank]

/-- A toggle inverts its pixel and leaves every other pixel as it was. -/
theorem pixel_toggle (fb : Framebuffer) (c c' : Fin 64) (r r' : Fin 32) :
    Framebuffer.pixel (Framebuffer.toggle fb c r) c' r' =
      if c' = c ∧ r' = r then !(Framebuffer.pixel fb c r) else Framebuffer.pixel fb c' r' := by
  simp only [Framebuffer.pixel, Framebuffer.toggle, Vector.get_eq_getElem, Vector.getElem_set, Fin.ext_iff]
  by_cases hr : r.val = r'.val
  · by_cases hc : c.val = c'.val
    · simp [hr, hc]
    · simp [hr, hc, Ne.symm hc]
  · simp [hr, Ne.symm hr]

/-- What one bit of a sprite does (R212). -/
theorem drawBit_of_set {vx vy i b : Nat} {row : Byte} (d : Drawing) (h : row.getLsbD (7 - b) = true) :
    drawBit vx vy i row d b =
      ⟨Framebuffer.toggle d.fb (spriteColumn vx b) (spriteRow vy i),
        d.collision || Framebuffer.pixel d.fb (spriteColumn vx b) (spriteRow vy i)⟩ := if_pos h

/-- A zero bit leaves its pixel and the flag alone (R212). -/
theorem drawBit_of_clear {vx vy i b : Nat} {row : Byte} (d : Drawing) (h : ¬ row.getLsbD (7 - b) = true) :
    drawBit vx vy i row d b = d := if_neg h

/-- One more row of a sprite. -/
theorem drawSprite_succ (s : State) (vx vy n : Nat) :
    drawSprite s vx vy (n + 1) =
      drawRow vx vy n (s.memByte (s.dataAddress n)) (drawSprite s vx vy n) := by
  simp [drawSprite, List.range_succ, List.foldl_append]

theorem drawSprite_zero (s : State) (vx vy : Nat) : drawSprite s vx vy 0 = ⟨s.fb, false⟩ := rfl

theorem spriteColumn_val (vx b : Nat) : (spriteColumn vx b).val = (vx + b) % 64 := rfl

theorem spriteRow_val (vy i : Nat) : (spriteRow vy i).val = (vy + i) % 32 := rfl

end Sys2Proof.Machine
end

