-- ==== Sys2Proof/Laws/Exec.lean ====
section
/-! SUPPORT. What `exec` and `step` can do, said once (rules R11, R120, R123, R266): an instruction either faults, and only
`run` changes, or completes, and its writes and its write of pc take effect together. Frames and invariants are read
off `writes`. -/

namespace Sys2Proof.Machine

/-- The state with an instruction's writes except that of pc, as its rule names them. -/
def writes (i : Instr) (s : State) : State :=
  match i with
  | .cls => s.show Framebuffer.blank
  | .ret => if h : 0 < s.sp.val then s.pop h else s
  | .call _ => if h : s.sp.val < 16 then s.push h s.pc else s
  | .jp _ | .jpV0 _ | .seImm _ _ | .sneImm _ _ | .seReg _ _ | .sneReg _ _ | .skp _ | .sknp _ => s
  | .ldImm x nn => s.setV x nn
  | .addImm x nn => s.setV x (s.getV x + nn)
  | .ldReg x y => s.setV x (s.getV y)
  | .orReg x y => s.setV x (s.getV x ||| s.getV y)
  | .andReg x y => s.setV x (s.getV x &&& s.getV y)
  | .xorReg x y => s.setV x (s.getV x ^^^ s.getV y)
  | .addReg x y => (s.setFlag (carryOut (s.getV x) (s.getV y))).setV x (s.getV x + s.getV y)
  | .sub x y =>
    let s1 := s.setFlag (noBorrow (s.getV x) (s.getV y))
    s1.setV x (s1.getV x - s1.getV y)
  | .shr x _ =>
    let s1 := s.setFlag (bitOutRight (s.getV x))
    s1.setV x (s1.getV x >>> 1)
  | .subn x y =>
    let s1 := s.setFlag (noBorrow (s.getV y) (s.getV x))
    s1.setV x (s1.getV y - s1.getV x)
  | .shl x _ =>
    let s1 := s.setFlag (bitOutLeft (s.getV x))
    s1.setV x (s1.getV x <<< 1)
  | .ldI nnn => s.setI (nnnAddress nnn)
  | .rnd x nn => (s.setV x (s.randomByte &&& nn)).consumeDraw
  | .drw x y n =>
    let d := drawSprite s (s.getV x).toNat (s.getV y).toNat n
    (s.setFlag d.collision).show d.fb
  | .ldVxDt x => s.setV x s.DT
  | .ldVxK x => s.setRun (.awaitingKey x)
  | .ldDtVx x => s.setDT (s.getV x)
  | .ldStVx x => s.setST (s.getV x)
  | .addI x => s.setI (BitVec.ofNat 16 ((s.I.toNat + (s.getV x).toNat) % 4096))
  | .ldF x => s.setI (BitVec.ofNat 16 ((s.getV x).toNat * 5))
  | .ldB x => s.storeBytes (s.dataAddress 0) (decimalDigits (s.getV x))
  | .storeRegs x => s.storeBytes (s.dataAddress 0) (s.regsTo x)
  | .loadRegs x => s.loadRegsFrom x (s.dataAddress 0)

/-- `t` is `s` with a fault recorded: nothing but `run` changed (R266). -/
def isFaultOf (s t : State) : Prop := ∃ c info, t = { s with run := .faulted c s.pc info }

theorem commit_fault_or {s s' t : State} {k : Nat} (h : commit s s' k = .next t) :
    isFaultOf s t ∨ ∃ w : Word, t = s'.setPc w := by
  rcases commit_cases h with ⟨_, rfl⟩ | ⟨_, rfl⟩
  · exact .inr ⟨_, rfl⟩
  · exact .inl ⟨_, _, rfl⟩

theorem withBlock_fault_or {s s' t : State} {count k : Nat} (h : withBlock s count (advance k s s') = .next t) :
    isFaultOf s t ∨ ∃ w : Word, t = s'.setPc w := by
  rcases withBlock_cases h with ⟨_, h⟩ | ⟨_, rfl⟩
  · exact commit_fault_or h
  · exact .inl ⟨_, _, rfl⟩

theorem skipOnKey_fault_or {s t : State} {x : Reg} {down : Bool} (h : skipOnKey x down s = .next t) :
    isFaultOf s t ∨ ∃ w : Word, t = s.setPc w := by
  unfold skipOnKey at h
  split at h
  · exact commit_fault_or h
  · injection h with h
    exact .inl ⟨_, _, h.symm⟩

/-- Everything `exec` can do: a fault with only `run` changed, or the instruction's writes and a write of pc. -/
theorem exec_cases {i : Instr} {s t : State} (h : exec i s = .next t) :
    isFaultOf s t ∨ ∃ w : Word, t = (writes i s).setPc w := by
  cases i with
  | ret =>
    simp only [exec, execRet] at h
    split at h
    · next hsp => simpa only [writes, hsp, dite_true] using commit_fault_or h
    · injection h with h
      exact .inl ⟨_, _, h.symm⟩
  | call nnn =>
    simp only [exec, execCall] at h
    split at h
    · next hsp => simpa only [writes, hsp, dite_true] using commit_fault_or h
    · injection h with h
      exact .inl ⟨_, _, h.symm⟩
  | skp x => exact skipOnKey_fault_or h
  | sknp x => exact skipOnKey_fault_or h
  | ldVxK x =>
    simp only [exec, execLdVxK] at h
    injection h with h
    exact .inr ⟨s.pc, h.symm⟩
  | drw x y n => exact withBlock_fault_or h
  | ldB x => exact withBlock_fault_or h
  | storeRegs x => exact withBlock_fault_or h
  | loadRegs x => exact withBlock_fault_or h
  | _ => exact commit_fault_or h

/-- `exec` always answers a next state. -/
theorem exec_total (i : Instr) (s : State) : ∃ t, exec i s = .next t := by
  have hc : ∀ s' k, ∃ t, commit s s' k = .next t := fun s' k => by
    unfold commit; split <;> exact ⟨_, rfl⟩
  have hb : ∀ s' k n, ∃ t, withBlock s n (advance k s s') = .next t := fun s' k n => by
    unfold withBlock; split
    · exact hc _ _
    · exact ⟨_, rfl⟩
  have hk : ∀ x d, ∃ t, skipOnKey x d s = .next t := fun x d => by
    unfold skipOnKey; split
    · exact hc _ _
    · exact ⟨_, rfl⟩
  cases i with
  | ret => simp only [exec, execRet]; split; exacts [hc _ _, ⟨_, rfl⟩]
  | call nnn => simp only [exec, execCall]; split; exacts [hc _ _, ⟨_, rfl⟩]
  | skp x => exact hk _ _
  | sknp x => exact hk _ _
  | ldVxK x => exact ⟨_, rfl⟩
  | drw x y n => exact hb _ _ _
  | ldB x => exact hb _ _ _
  | storeRegs x => exact hb _ _ _
  | loadRegs x => exact hb _ _ _
  | _ => exact hc _ _

/-! ### The step -/

theorem step_of_running {s : State} (h : s.run = .running) : step s = stepRunning s := by
  simp only [step, cycle, h]

theorem step_of_awaiting {s : State} {x : Reg} (h : s.run = .awaitingKey x) : step s = pollKey x s := by
  simp only [step, cycle, h]

theorem step_of_faulted {s : State} {c : Cause} {p info : Word} (h : s.run = .faulted c p info) : step s = .next s := by
  simp only [step, cycle, h]

end Sys2Proof.Machine
end

