-- ==== Sys2Proof/Laws/PerInstr.lean ====
section
/-! SUPPORT. Statements made of every instruction as syntax, one lemma per constructor (LAWS.json). -/

namespace Sys2Proof

/-! ### The row of a word in each format (rules R91, R93): masking it gives the row's match -/

theorem selects_formatA {f : BitVec 4} {p : Word} (nnn : Addr12) (h : p = formatA f 0) :
    (rowFamily p).selects (formatA f nnn) = true := by
  subst h
  simp only [TableRow.selects, rowFamily, formatA, beq_iff_eq]
  refine BitVec.eq_of_getLsbD_eq fun k hk => ?_
  simp only [BitVec.getLsbD_and, BitVec.getLsbD_append]
  interval_cases k <;> simp

theorem selects_formatI {f : BitVec 4} {p : Word} (x : Reg) (nn : Byte) (h : p = formatA f 0) :
    (rowFamily p).selects (formatI f x nn) = true := selects_formatA (regBits x ++ nn : BitVec 12) h

theorem selects_formatD {f : BitVec 4} {p : Word} (x y : Reg) (n : BitVec 4) (h : p = formatA f 0) :
    (rowFamily p).selects (formatR f x y n) = true :=
  selects_formatA (regBits x ++ (regBits y ++ n : BitVec 8) : BitVec 12) h

theorem selects_formatX {f : BitVec 4} {fn : Byte} {p : Word} (x : Reg) (h : p = formatI f 0 fn) :
    (rowX p).selects (formatI f x fn) = true := by
  subst h
  simp only [TableRow.selects, rowX, formatI, beq_iff_eq]
  refine BitVec.eq_of_getLsbD_eq fun k hk => ?_
  simp only [BitVec.getLsbD_and, BitVec.getLsbD_append]
  interval_cases k <;> simp [regBits]

theorem selects_formatR {f fn : BitVec 4} {p : Word} (x y : Reg) (h : p = formatR f 0 0 fn) :
    (rowR p).selects (formatR f x y fn) = true := by
  subst h
  simp only [TableRow.selects, rowR, formatR, beq_iff_eq]
  refine BitVec.eq_of_getLsbD_eq fun k hk => ?_
  simp only [BitVec.getLsbD_and, BitVec.getLsbD_append]
  interval_cases k <;> simp [regBits]

end Sys2Proof

namespace Sys2Proof.Laws.EncodingInRow

/-- The encoding of an instruction is a word its row of the opcode table selects, whatever its operands (R93, R114). -/
def Statement (i : Instr) : Prop := i.row.selects (encode i) = true

theorem cls : Statement (.cls) := rfl
theorem ret : Statement (.ret) := rfl
theorem jp (nnn : Addr12) : Statement (.jp nnn) := selects_formatA nnn rfl
theorem call (nnn : Addr12) : Statement (.call nnn) := selects_formatA nnn rfl
theorem seImm (x : Reg) (nn : Byte) : Statement (.seImm x nn) := selects_formatI x nn rfl
theorem sneImm (x : Reg) (nn : Byte) : Statement (.sneImm x nn) := selects_formatI x nn rfl
theorem seReg (x y : Reg) : Statement (.seReg x y) := selects_formatR x y rfl
theorem ldImm (x : Reg) (nn : Byte) : Statement (.ldImm x nn) := selects_formatI x nn rfl
theorem addImm (x : Reg) (nn : Byte) : Statement (.addImm x nn) := selects_formatI x nn rfl
theorem ldReg (x y : Reg) : Statement (.ldReg x y) := selects_formatR x y rfl
theorem orReg (x y : Reg) : Statement (.orReg x y) := selects_formatR x y rfl
theorem andReg (x y : Reg) : Statement (.andReg x y) := selects_formatR x y rfl
theorem xorReg (x y : Reg) : Statement (.xorReg x y) := selects_formatR x y rfl
theorem addReg (x y : Reg) : Statement (.addReg x y) := selects_formatR x y rfl
theorem sub (x y : Reg) : Statement (.sub x y) := selects_formatR x y rfl
theorem shr (x y : Reg) : Statement (.shr x y) := selects_formatR x y rfl
theorem subn (x y : Reg) : Statement (.subn x y) := selects_formatR x y rfl
theorem shl (x y : Reg) : Statement (.shl x y) := selects_formatR x y rfl
theorem sneReg (x y : Reg) : Statement (.sneReg x y) := selects_formatR x y rfl
theorem ldI (nnn : Addr12) : Statement (.ldI nnn) := selects_formatA nnn rfl
theorem jpV0 (nnn : Addr12) : Statement (.jpV0 nnn) := selects_formatA nnn rfl
theorem rnd (x : Reg) (nn : Byte) : Statement (.rnd x nn) := selects_formatI x nn rfl
theorem drw (x y : Reg) (n : Nat) : Statement (.drw x y n) := selects_formatD x y _ rfl
theorem skp (x : Reg) : Statement (.skp x) := selects_formatX x rfl
theorem sknp (x : Reg) : Statement (.sknp x) := selects_formatX x rfl
theorem ldVxDt (x : Reg) : Statement (.ldVxDt x) := selects_formatX x rfl
theorem ldVxK (x : Reg) : Statement (.ldVxK x) := selects_formatX x rfl
theorem ldDtVx (x : Reg) : Statement (.ldDtVx x) := selects_formatX x rfl
theorem ldStVx (x : Reg) : Statement (.ldStVx x) := selects_formatX x rfl
theorem addI (x : Reg) : Statement (.addI x) := selects_formatX x rfl
theorem ldF (x : Reg) : Statement (.ldF x) := selects_formatX x rfl
theorem ldB (x : Reg) : Statement (.ldB x) := selects_formatX x rfl
theorem storeRegs (x : Reg) : Statement (.storeRegs x) := selects_formatX x rfl
theorem loadRegs (x : Reg) : Statement (.loadRegs x) := selects_formatX x rfl

end Sys2Proof.Laws.EncodingInRow

namespace Sys2Proof.Laws.RowInTable

/-- The row an instruction stands in is one of the 34 rows of the opcode table (R114). -/
def Statement (i : Instr) : Prop := i.row ∈ opcodeTable

theorem cls : Statement (.cls) :=
  (by decide : rowZ 0x00E0#16 ∈ opcodeTable)
theorem ret : Statement (.ret) :=
  (by decide : rowZ 0x00EE#16 ∈ opcodeTable)
theorem jp (nnn : Addr12) : Statement (.jp nnn) :=
  (by decide : rowFamily 0x1000#16 ∈ opcodeTable)
theorem call (nnn : Addr12) : Statement (.call nnn) :=
  (by decide : rowFamily 0x2000#16 ∈ opcodeTable)
theorem seImm (x : Reg) (nn : Byte) : Statement (.seImm x nn) :=
  (by decide : rowFamily 0x3000#16 ∈ opcodeTable)
theorem sneImm (x : Reg) (nn : Byte) : Statement (.sneImm x nn) :=
  (by decide : rowFamily 0x4000#16 ∈ opcodeTable)
theorem seReg (x y : Reg) : Statement (.seReg x y) :=
  (by decide : rowR 0x5000#16 ∈ opcodeTable)
theorem ldImm (x : Reg) (nn : Byte) : Statement (.ldImm x nn) :=
  (by decide : rowFamily 0x6000#16 ∈ opcodeTable)
theorem addImm (x : Reg) (nn : Byte) : Statement (.addImm x nn) :=
  (by decide : rowFamily 0x7000#16 ∈ opcodeTable)
theorem ldReg (x y : Reg) : Statement (.ldReg x y) :=
  (by decide : rowR 0x8000#16 ∈ opcodeTable)
theorem orReg (x y : Reg) : Statement (.orReg x y) :=
  (by decide : rowR 0x8001#16 ∈ opcodeTable)
theorem andReg (x y : Reg) : Statement (.andReg x y) :=
  (by decide : rowR 0x8002#16 ∈ opcodeTable)
theorem xorReg (x y : Reg) : Statement (.xorReg x y) :=
  (by decide : rowR 0x8003#16 ∈ opcodeTable)
theorem addReg (x y : Reg) : Statement (.addReg x y) :=
  (by decide : rowR 0x8004#16 ∈ opcodeTable)
theorem sub (x y : Reg) : Statement (.sub x y) :=
  (by decide : rowR 0x8005#16 ∈ opcodeTable)
theorem shr (x y : Reg) : Statement (.shr x y) :=
  (by decide : rowR 0x8006#16 ∈ opcodeTable)
theorem subn (x y : Reg) : Statement (.subn x y) :=
  (by decide : rowR 0x8007#16 ∈ opcodeTable)
theorem shl (x y : Reg) : Statement (.shl x y) :=
  (by decide : rowR 0x800E#16 ∈ opcodeTable)
theorem sneReg (x y : Reg) : Statement (.sneReg x y) :=
  (by decide : rowR 0x9000#16 ∈ opcodeTable)
theorem ldI (nnn : Addr12) : Statement (.ldI nnn) :=
  (by decide : rowFamily 0xA000#16 ∈ opcodeTable)
theorem jpV0 (nnn : Addr12) : Statement (.jpV0 nnn) :=
  (by decide : rowFamily 0xB000#16 ∈ opcodeTable)
theorem rnd (x : Reg) (nn : Byte) : Statement (.rnd x nn) :=
  (by decide : rowFamily 0xC000#16 ∈ opcodeTable)
theorem drw (x y : Reg) (n : Nat) : Statement (.drw x y n) :=
  (by decide : rowFamily 0xD000#16 ∈ opcodeTable)
theorem skp (x : Reg) : Statement (.skp x) :=
  (by decide : rowX 0xE09E#16 ∈ opcodeTable)
theorem sknp (x : Reg) : Statement (.sknp x) :=
  (by decide : rowX 0xE0A1#16 ∈ opcodeTable)
theorem ldVxDt (x : Reg) : Statement (.ldVxDt x) :=
  (by decide : rowX 0xF007#16 ∈ opcodeTable)
theorem ldVxK (x : Reg) : Statement (.ldVxK x) :=
  (by decide : rowX 0xF00A#16 ∈ opcodeTable)
theorem ldDtVx (x : Reg) : Statement (.ldDtVx x) :=
  (by decide : rowX 0xF015#16 ∈ opcodeTable)
theorem ldStVx (x : Reg) : Statement (.ldStVx x) :=
  (by decide : rowX 0xF018#16 ∈ opcodeTable)
theorem addI (x : Reg) : Statement (.addI x) :=
  (by decide : rowX 0xF01E#16 ∈ opcodeTable)
theorem ldF (x : Reg) : Statement (.ldF x) :=
  (by decide : rowX 0xF029#16 ∈ opcodeTable)
theorem ldB (x : Reg) : Statement (.ldB x) :=
  (by decide : rowX 0xF033#16 ∈ opcodeTable)
theorem storeRegs (x : Reg) : Statement (.storeRegs x) :=
  (by decide : rowX 0xF055#16 ∈ opcodeTable)
theorem loadRegs (x : Reg) : Statement (.loadRegs x) :=
  (by decide : rowX 0xF065#16 ∈ opcodeTable)

end Sys2Proof.Laws.RowInTable
end

