-- ==== Sys2Proof/Tests/Slice0.lean ====
section
/-! SUPPORT. Tests and witnesses. The expected results are the spec's: the formats of 30_encoding.md, the vectors of
95_test_vectors.md (their ids stand in the docstrings). A witness shows values that meet the hypotheses of the
obligation it is named after, one set for each of its clauses, at the boundaries. -/

namespace Sys2Proof.Tests

open Sys2Proof Sys2Proof.Machine

/-! ### Well-formedness -/

/-- A row count of 16 has no 4-bit field (R92); 15 has. -/
theorem test_drw_count_checked : (Instr.drw 0 0 16).wellFormed = false ∧ (Instr.drw 0 0 15).wellFormed = true := by decide

/-! ### Decoding: words written out bit by bit from the formats of R91 and the functions of R94 to R101 -/

/-- Formats Z and A. -/
theorem test_decode_words_z_a :
    decode 0b0000000011100000#16 = .instr .cls ∧ decode 0b0000000011101110#16 = .instr .ret ∧
    decode 0b0001001000110100#16 = .instr (.jp 0x234#12) ∧ decode 0b0010111100000001#16 = .instr (.call 0xF01#12) ∧
    decode 0b1010001011110000#16 = .instr (.ldI 0x2F0#12) ∧ decode 0b1011000100000010#16 = .instr (.jpV0 0x102#12) := by decide

/-- Format I. -/
theorem test_decode_words_i :
    decode 0b0011001100101010#16 = .instr (.seImm 3 0x2A#8) ∧ decode 0b0100000111010101#16 = .instr (.sneImm 1 0xD5#8) ∧
    decode 0b0110101000101111#16 = .instr (.ldImm 0xA 0x2F#8) ∧ decode 0b0111000111111110#16 = .instr (.addImm 1 0xFE#8) ∧
    decode 0b1100001110001111#16 = .instr (.rnd 3 0x8F#8) := by decide

/-- Formats R and D. -/
theorem test_decode_words_r_d :
    decode 0b0101000100100000#16 = .instr (.seReg 1 2) ∧ decode 0b1001000100100000#16 = .instr (.sneReg 1 2) ∧
    decode 0b1000000100100000#16 = .instr (.ldReg 1 2) ∧ decode 0b1000000100100001#16 = .instr (.orReg 1 2) ∧
    decode 0b1000000100100010#16 = .instr (.andReg 1 2) ∧ decode 0b1000000100100011#16 = .instr (.xorReg 1 2) ∧
    decode 0b1000000100100100#16 = .instr (.addReg 1 2) ∧ decode 0b1000000100100101#16 = .instr (.sub 1 2) ∧
    decode 0b1000101011110110#16 = .instr (.shr 0xA 0xF) ∧ decode 0b1000000100100111#16 = .instr (.subn 1 2) ∧
    decode 0b1000101011111110#16 = .instr (.shl 0xA 0xF) ∧ decode 0b1101000100101111#16 = .instr (.drw 1 2 15) := by decide

/-- Format X. -/
theorem test_decode_words_x :
    decode 0b1110001010011110#16 = .instr (.skp 2) ∧ decode 0b1110001010100001#16 = .instr (.sknp 2) ∧
    decode 0b1111001100000111#16 = .instr (.ldVxDt 3) ∧ decode 0b1111001100001010#16 = .instr (.ldVxK 3) ∧
    decode 0b1111001100010101#16 = .instr (.ldDtVx 3) ∧ decode 0b1111001100011000#16 = .instr (.ldStVx 3) ∧
    decode 0b1111001000011110#16 = .instr (.addI 2) ∧ decode 0b1111010000101001#16 = .instr (.ldF 4) ∧
    decode 0b1111001100110011#16 = .instr (.ldB 3) ∧ decode 0b1111111101010101#16 = .instr (.storeRegs 0xF) ∧
    decode 0b1111111101100101#16 = .instr (.loadRegs 0xF) := by decide

/-- Section 2.8 of the vectors: words that are no instruction, families 0, 5, 9 and 8. -/
theorem test_decode_rejects_low :
    [0x0000#16, 0x00E1#16, 0x00EF#16, 0x01E0#16, 0x0123#16, 0x5121#16, 0x9AB7#16, 0x8128#16, 0x812F#16].map decode =
    [0x0000#16, 0x00E1#16, 0x00EF#16, 0x01E0#16, 0x0123#16, 0x5121#16, 0x9AB7#16, 0x8128#16, 0x812F#16].map .unknownOpcode := by
  decide

/-- Section 2.8, families E and F. -/
theorem test_decode_rejects_high :
    [0xE09F#16, 0xE000#16, 0xE1A2#16, 0xF0FF#16, 0xF075#16, 0xF030#16, 0xF10B#16, 0xF166#16].map decode =
    [0xE09F#16, 0xE000#16, 0xE1A2#16, 0xF0FF#16, 0xF075#16, 0xF030#16, 0xF10B#16, 0xF166#16].map .unknownOpcode := by
  decide

/-- A byte string decodes high byte first, with the rest kept; a lone byte is no instruction (R62, R90). -/
theorem test_decode_bytes :
    decodeBytes [0x12#8, 0x34#8, 0x56#8] = (.instr (.jp 0x234#12), [0x56#8]) ∧ decodeBytes [0x12#8] = (.truncated, []) ∧
    decodeTableWord 16 0xD12F = some (.drw 1 2 15) ∧ decodeTableWord 16 0x5121 = none := by decide

/-! ### One step of each instruction -/

/-- One `step()` from s with the word stored at pc. -/
def ran (op : Nat) (s : State) : Option State := nextState? (step (s.withFetchWord 16 op))

/-- The reset state with some registers set. -/
def withV (vs : List (Reg × Byte)) : State := vs.foldl (fun s p => s.setV p.1 p.2) State.reset

/-- What a test looks at: two registers and pc. -/
def see (a b : Reg) (t : Option State) : Option (Byte × Byte × Word) := t.map fun t => (t.getV a, t.getV b, t.pc)

/-- The framebuffer with these pixels (column, row) lit and no other. -/
def fbOf (ps : List (Fin 64 × Fin 32)) : Framebuffer := ps.foldl (fun fb p => Framebuffer.toggle fb p.1 p.2) Framebuffer.blank

/-- The state with one slot of the stack in use. -/
def called (w : Word) : State := (State.reset.push (by decide) w).setPc 0x300#16

/-- D13. -/
theorem test_cls :
    (ran 0x00E0 (((withV [(0xF, 1#8)]).show (fbOf [(0, 0), (63, 31)])).acknowledgeFrame)).map
      (fun t => (t.fb, t.getV 0xF, t.frameDirty, t.pc)) = some (fbOf [], 1#8, true, 0x202#16) := by decide

/-- F1. -/
theorem test_ret : (ran 0x00EE (called 0x200#16)).map (fun t => (t.pc, t.sp, t.slot 0)) = some (0x202#16, 0, 0x200#16) := by decide
/-- F3. -/
theorem test_ret_top : (ran 0x00EE (called 0xFFE#16)).map (fun t => (t.run, t.pc, t.sp)) =
    some (.faulted .outOfRangeAddress 0x300#16 0x1000#16, 0x300#16, 1) := by decide
/-- F4. -/
theorem test_jp : (ran 0x1234 State.reset).map (·.pc) = some 0x234#16 := by decide
/-- F6. -/
theorem test_call : (ran 0x2300 State.reset).map (fun t => (t.slot 0, t.sp, t.pc)) = some (0x200#16, 1, 0x300#16) := by decide
/-- F7: the stack is full. -/
theorem test_call_full : (ran 0x2300 { State.reset with sp := 16 }).map (fun t => (t.run, t.pc)) =
    some (.faulted .stackOverflow 0x200#16 0x2300#16, 0x200#16) := by decide
/-- F9, EX9. -/
theorem test_jpV0 : (ran 0xB102 (withV [(0, 0x0F#8)])).map (·.pc) = some 0x111#16 := by decide
/-- F11. -/
theorem test_jpV0_fault : (ran 0xBFFF (withV [(0, 0xFF#8)])).map (·.run) =
    some (.faulted .outOfRangeAddress 0x200#16 0x10FE#16) := by decide
/-- F13, F14. -/
theorem test_seImm : (ran 0x332A (withV [(3, 0x2A#8)])).map (·.pc) = some 0x204#16 ∧
    (ran 0x332B (withV [(3, 0x2A#8)])).map (·.pc) = some 0x202#16 := by decide
/-- F15, F16. -/
theorem test_sneImm : (ran 0x432A (withV [(3, 0x2A#8)])).map (·.pc) = some 0x202#16 ∧
    (ran 0x432B (withV [(3, 0x2A#8)])).map (·.pc) = some 0x204#16 := by decide
/-- F17, F18. -/
theorem test_seReg : (ran 0x5120 (withV [(1, 7#8), (2, 7#8)])).map (·.pc) = some 0x204#16 ∧
    (ran 0x5120 (withV [(1, 7#8), (2, 8#8)])).map (·.pc) = some 0x202#16 := by decide
/-- F20, F21. -/
theorem test_sneReg : (ran 0x9120 (withV [(1, 7#8), (2, 8#8)])).map (·.pc) = some 0x204#16 ∧
    (ran 0x9120 (withV [(1, 7#8), (2, 7#8)])).map (·.pc) = some 0x202#16 := by decide
/-- F26: a satisfied skip at the top. -/
theorem test_skip_fault : (ran 0x3000 (State.reset.setPc 0xFFE#16)).map (·.run) =
    some (.faulted .outOfRangeAddress 0xFFE#16 0x1002#16) := by decide
/-- A1. -/
theorem test_ldImm : see 0xA 0xF (ran 0x6A2F State.reset) = some (0x2F#8, 0#8, 0x202#16) := by decide
/-- A2. -/
theorem test_addImm : see 1 0xF (ran 0x7120 (withV [(1, 0xF0#8), (0xF, 0x55#8)])) = some (0x10#8, 0x55#8, 0x202#16) := by decide
/-- A4. -/
theorem test_ldReg : see 1 2 (ran 0x8120 (withV [(2, 0x55#8)])) = some (0x55#8, 0x55#8, 0x202#16) := by decide
/-- A5. -/
theorem test_orReg : see 1 0xF (ran 0x8121 (withV [(1, 0xF0#8), (2, 0x0F#8), (0xF, 0x55#8)])) = some (0xFF#8, 0x55#8, 0x202#16) := by decide
/-- A6. -/
theorem test_andReg : see 1 0xF (ran 0x8122 (withV [(1, 0xF0#8), (2, 0x3C#8), (0xF, 0x55#8)])) = some (0x30#8, 0x55#8, 0x202#16) := by decide
/-- A7. -/
theorem test_xorReg : see 1 0xF (ran 0x8123 (withV [(1, 0xF0#8), (2, 0x3C#8), (0xF, 0x55#8)])) = some (0xCC#8, 0x55#8, 0x202#16) := by decide
/-- A8, EX4. -/
theorem test_addReg : see 1 0xF (ran 0x8124 (withV [(1, 0xFF#8), (2, 1#8)])) = some (0#8, 1#8, 0x202#16) := by decide
/-- L2: x = F, the carry is lost. -/
theorem test_addReg_x_is_flag : see 0xF 1 (ran 0x8F14 (withV [(1, 0x20#8), (0xF, 0xF0#8)])) = some (0x10#8, 0x20#8, 0x202#16) := by decide
/-- A11, EX4. -/
theorem test_sub : see 1 0xF (ran 0x8125 (withV [(1, 1#8), (2, 2#8), (0xF, 1#8)])) = some (0xFF#8, 0#8, 0x202#16) := by decide
/-- L4: y = F, the subtraction uses the new flag. -/
theorem test_sub_y_is_flag : see 1 0xF (ran 0x81F5 (withV [(1, 5#8), (0xF, 3#8)])) = some (4#8, 1#8, 0x202#16) := by decide
/-- A15: y is ignored. -/
theorem test_shr : see 1 0xF (ran 0x81F6 (withV [(1, 4#8), (0xF, 1#8)])) = some (2#8, 0#8, 0x202#16) := by decide
/-- L9: x = F. -/
theorem test_shr_x_is_flag : see 0xF 0 (ran 0x8F06 (withV [(0xF, 0xFF#8)])) = some (0#8, 0#8, 0x202#16) := by decide
/-- A17. -/
theorem test_subn : see 1 0xF (ran 0x8127 (withV [(1, 1#8), (2, 3#8)])) = some (2#8, 1#8, 0x202#16) := by decide
/-- L12: x = F. -/
theorem test_subn_x_is_flag : see 0xF 1 (ran 0x8F17 (withV [(1, 9#8), (0xF, 4#8)])) = some (8#8, 9#8, 0x202#16) := by decide
/-- A18. -/
theorem test_shl : see 1 0xF (ran 0x810E (withV [(1, 0x81#8)])) = some (2#8, 1#8, 0x202#16) := by decide
/-- L15: x = F. -/
theorem test_shl_x_is_flag : see 0xF 0 (ran 0x8F0E (withV [(0xF, 0x80#8)])) = some (2#8, 0#8, 0x202#16) := by decide
/-- R171: one byte is drawn. -/
theorem test_rnd_draws : (ran 0xC30F State.reset).map (fun t => (t.draws, t.pc)) = some (1, 0x202#16) := by decide
/-- A21: nn = 0 gives 0 for every draw. -/
theorem test_rnd_masks : (nextState? (execRnd 3 0#8 State.reset)).map (·.getV 3) = some 0#8 := by
  simp [execRnd, advance_of_le _ _ _ (show State.reset.pc.toNat + 2 ≤ 0xFFF by decide), nextState?]
/-- M2. -/
theorem test_ldI : (ran 0xAFFF State.reset).map (fun t => (t.I, t.pc)) = some (0xFFF#16, 0x202#16) := by decide
/-- M4: wraps, no flag. -/
theorem test_addI : (ran 0xF21E ((withV [(2, 1#8)]).setI 0xFFF#16)).map (fun t => (t.I, t.getV 0xF, t.pc)) =
    some (0#16, 0#8, 0x202#16) := by decide
/-- M7: no mask. -/
theorem test_ldF : (ran 0xF429 (withV [(4, 0xFF#8)])).map (fun t => (t.I, t.pc)) = some (0x4FB#16, 0x202#16) := by decide
/-- M8, EX8. -/
theorem test_ldB : (ran 0xF333 ((withV [(3, 0x95#8)]).setI 0x300#16)).map
    (fun t => ([0x300, 0x301, 0x302].map t.memByte, t.I, t.pc)) = some ([1#8, 4#8, 9#8], 0x300#16, 0x202#16) := by decide
/-- M12: nothing is written. -/
theorem test_ldB_fault : (ran 0xF333 ((withV [(3, 0x7B#8)]).setI 0xFFE#16)).map (fun t => (t.run, t.memByte 0xFFE)) =
    some (.faulted .outOfRangeAddress 0x200#16 0x1000#16, 0#8) := by decide
/-- M13. -/
theorem test_storeRegs : (ran 0xF255 ((withV [(0, 0x11#8), (1, 0x22#8), (2, 0x33#8), (3, 0x44#8)]).setI 0x300#16)).map
    (fun t => ([0x300, 0x301, 0x302, 0x303].map t.memByte, t.I, t.pc)) =
      some ([0x11#8, 0x22#8, 0x33#8, 0#8], 0x300#16, 0x202#16) := by decide
/-- M21: the instruction overwrites its own first byte. -/
theorem test_storeRegs_code : (ran 0xF055 ((withV [(0, 0x12#8)]).setI 0x200#16)).map (fun t => (t.memByte 0x200, t.pc)) =
    some (0x12#8, 0x202#16) := by decide
/-- M17. -/
theorem test_loadRegs : (ran 0xF165 (((withV [(2, 0x77#8)]).setI 0x300#16).storeBytes 0x300 [0xAA#8, 0xBB#8, 0xCC#8])).map
    (fun t => ([0, 1, 2].map t.getV, t.I, t.pc)) = some ([0xAA#8, 0xBB#8, 0x77#8], 0x300#16, 0x202#16) := by decide
/-- M19. -/
theorem test_loadRegs_fault : (ran 0xF165 (State.reset.setI 0xFFF#16)).map (fun t => (t.run, t.getV 0)) =
    some (.faulted .outOfRangeAddress 0x200#16 0x1000#16, 0#8) := by decide
/-- D4: wraps in both directions. -/
theorem test_drw_wraps :
    (ran 0xD122 (((withV [(1, 0x3C#8), (2, 0x1F#8)]).setI 0x300#16).storeBytes 0x300 [0xFF#8, 0x81#8])).map
      (fun t => (t.fb, t.getV 0xF, t.frameDirty, t.pc)) =
    some (fbOf [(60, 31), (61, 31), (62, 31), (63, 31), (0, 31), (1, 31), (2, 31), (3, 31), (60, 0), (3, 0)], 0#8, true, 0x202#16) := by
  decide
/-- D12: a collision. -/
theorem test_drw_collides :
    (ran 0xD011 (((State.reset.show (fbOf [(1, 0), (4, 0)])).setI 0x300#16).storeBytes 0x300 [0xF0#8])).map
      (fun t => (t.fb, t.getV 0xF, t.pc)) = some (fbOf [(0, 0), (2, 0), (3, 0), (4, 0)], 1#8, 0x202#16) := by decide
/-- K1. -/
theorem test_skp : (ran 0xE29E ((withV [(2, 5#8)]).setKey 5 true)).map (·.pc) = some 0x204#16 := by decide
/-- K5: not masked to key 0. -/
theorem test_skp_index : (ran 0xE29E ((withV [(2, 0x10#8)]).setKey 0 true)).map (·.run) =
    some (.faulted .keyIndexOutOfRange 0x200#16 0x10#16) := by decide
/-- K3, K4. -/
theorem test_sknp : (ran 0xE2A1 (withV [(2, 5#8)])).map (·.pc) = some 0x204#16 ∧
    (ran 0xE2A1 ((withV [(2, 5#8)]).setKey 5 true)).map (·.pc) = some 0x202#16 := by decide
/-- K7: the fetching step does not poll. -/
theorem test_ldVxK : (ran 0xF30A (State.reset.setKey 7 true)).map (fun t => (t.run, t.pc, t.getV 3)) =
    some (.awaitingKey 3, 0x200#16, 0#8) := by decide
/-- K8: the poll takes the lowest key. -/
theorem test_poll : (nextState? (step (((State.reset.setKey 0xC true).setKey 7 true).setRun (.awaitingKey 3)))).map
    (fun t => (t.getV 3, t.run, t.pc)) = some (7#8, .running, 0x202#16) := by decide
/-- T1. -/
theorem test_ldVxDt : (ran 0xF307 (State.reset.setDT 0x1E#8)).map (fun t => (t.getV 3, t.DT, t.pc)) =
    some (0x1E#8, 0x1E#8, 0x202#16) := by decide
/-- T2. -/
theorem test_ldDtVx : (ran 0xF315 (withV [(3, 0x3C#8)])).map (fun t => (t.DT, t.ST, t.pc)) = some (0x3C#8, 0#8, 0x202#16) := by decide
/-- T3. -/
theorem test_ldStVx : (ran 0xF318 (withV [(3, 2#8)])).map (fun t => (t.DT, t.ST, t.pc)) = some (0#8, 2#8, 0x202#16) := by decide

/-! ### Fetch, faults and the environment's operations -/

/-- S1: empty memory is not a no-op sled. -/
theorem test_empty_memory : nextState? (step State.reset) =
    some { State.reset with run := .faulted .unknownOpcode 0x200#16 0#16 } := by decide
/-- F5, second step: the fetch at 0xFFF. -/
theorem test_fetch_top : (nextState? (step (State.reset.setPc 0xFFF#16))).map (·.run) =
    some (.faulted .outOfRangeAddress 0xFFF#16 0x1000#16) := by decide
/-- EX3, S8: a load is verbatim and a shorter one does not clear the rest. -/
theorem test_loadGame : [0x1FF, 0x200, 0x201, 0x202].map
    (State.memByte ((State.reset.loadGame [0xAA#8, 0xBB#8]).loadGame [0x11#8])) = [0#8, 0x11#8, 0xBB#8, 0#8] := by decide
/-- T5, third tick: the beep. -/
theorem test_tick : ((State.reset.setST 1#8).tick.ST, (State.reset.setST 1#8).tickBeeps, State.reset.tick.DT, State.reset.tickBeeps) =
    (0#8, true, 0#8, false) := by decide
/-- T10: a faulted engine does not tick. -/
theorem test_tick_faulted : (((State.reset.setST 1#8).setDT 5#8).enterFault .unknownOpcode 0#16).tick =
    ((State.reset.setST 1#8).setDT 5#8).enterFault .unknownOpcode 0#16 := by decide

/-! ### Witnesses -/

/-- An answer whose next state has a property, found by evaluation. -/
theorem next_of {r : Result} {p : State → Bool} (h : (nextState? r).any p = true) : ∃ t, r = .next t ∧ p t = true := by
  cases r with
  | next t => exact ⟨t, rfl, h⟩
  | fault f => cases h
  | refused f => cases h

/-- The state and the events an operation answers. -/
def answer? (r : Host.Outcome (State × List Event) Fault Refusal) : Option (State × List Event) :=
  match r with
  | .next a => some a
  | .fault _ => none
  | .refused _ => none

theorem answer_of {r : Host.Outcome (State × List Event) Fault Refusal} {p : State → List Event → Bool}
    (h : (answer? r).any (fun a => p a.1 a.2) = true) : ∃ t es, r = .next (t, es) ∧ p t es = true := by
  cases r with
  | next a => exact ⟨a.1, a.2, rfl, h⟩
  | fault f => cases h
  | refused f => cases h

/-- The reset state with pc at w, with I at w. -/
abbrev atPc (w : Word) : State := State.reset.setPc w
abbrev atI (w : Word) : State := State.reset.setI w

/-- The state with the word stored at pc. -/
abbrev placed (op : Nat) (s : State) : State := s.withFetchWord 16 op

/-- A faulted state, and a waiting one with key 7 down. -/
abbrev faultedState : State := State.reset.enterFault .unknownOpcode 0#16
abbrev waitingState : State := (State.reset.setKey 7 true).setRun (.awaitingKey 3)

theorem witness_EncodedInstructionDecodesToItself : (Instr.drw 0xF 0xF 15).wellFormed = true := by decide

theorem witness_DecodedWordEncodesBack : decode 0x8AF6#16 = .instr (.shr 0xA 0xF) := by decide

theorem witness_OpcodeTableSelectsDecodedInstruction :
    (rowX 0xF065#16 ∈ opcodeTable ∧ (rowX 0xF065#16).selects 0xFF65#16 = true) ∧ decode 0xFF65#16 = .instr (.loadRegs 0xF) ∧
    (∀ r ∈ opcodeTable, r.selects 0x5121#16 = false) := by decide

theorem witness_WordsDecodeByFamily_0A :
    (0x00E0#16).toNat / 4096 = 0 ∧ (0x00EE#16).toNat / 4096 = 0 ∧ (0x0FFF#16).toNat / 4096 = 0 ∧
    (∀ f ∈ [0x1, 0x2, 0xA, 0xB], ∃ (op : Word) (nnn : Addr12), nnn.toNat = op.toNat % 4096 ∧ op.toNat / 4096 = f) :=
  ⟨by decide, by decide, by decide, by
    intro f hf
    simp only [List.mem_cons, List.not_mem_nil, or_false] at hf
    rcases hf with rfl | rfl | rfl | rfl
    exacts [⟨0x1FFF#16, 0xFFF#12, by decide⟩, ⟨0x2FFF#16, 0xFFF#12, by decide⟩, ⟨0xAFFF#16, 0xFFF#12, by decide⟩,
      ⟨0xB000#16, 0x000#12, by decide⟩]⟩

/-- Format I: x and nn of the words 3FFF, 4FFF, 6FFF, 7FFF and C000. -/
theorem witness_WordsDecodeByFamily_I :
    [0x3FFF#16, 0x4FFF#16, 0x6FFF#16, 0x7FFF#16, 0xC000#16].map (fun op => (op.toNat / 4096, op.toNat / 256 % 16, op.toNat % 256)) =
    [(0x3, 15, 255), (0x4, 15, 255), (0x6, 15, 255), (0x7, 15, 255), (0xC, 0, 0)] := by decide

/-- Formats R and D: x, y and the low nibble of both outcomes of families 5 and 9, of family 8's ends, and of D. -/
theorem witness_WordsDecodeByFamily_RD :
    [0x50F0#16, 0x50FF#16, 0x90F0#16, 0x90FF#16, 0x80F0#16, 0x80FE#16, 0x80FF#16, 0xD0FF#16].map
      (fun op => (op.toNat / 4096, op.toNat / 256 % 16, op.toNat / 16 % 16, op.toNat % 16)) =
    [(0x5, 0, 15, 0), (0x5, 0, 15, 15), (0x9, 0, 15, 0), (0x9, 0, 15, 15), (0x8, 0, 15, 0), (0x8, 0, 15, 0xE), (0x8, 0, 15, 0xF),
      (0xD, 0, 15, 15)] := by decide

/-- Format X: x and the low byte. -/
theorem witness_WordsDecodeByFamily_X :
    [0xEF9E#16, 0xEFA1#16, 0xEF00#16, 0xFF07#16, 0xFF65#16, 0xFFFF#16].map
      (fun op => (op.toNat / 4096, op.toNat / 256 % 16, op.toNat % 256)) =
    [(0xE, 15, 0x9E), (0xE, 15, 0xA1), (0xE, 15, 0), (0xF, 15, 0x07), (0xF, 15, 0x65), (0xF, 15, 0xFF)] := by decide

theorem witness_StepFetchesDecodesAndExecutes :
    ((atPc 0xFFF#16).run = .running ∧ (atPc 0xFFF#16).pc.toNat + 1 > 0xFFF) ∧
    ((placed 0x1234 (atPc 0xFFE#16)).run = .running ∧ (placed 0x1234 (atPc 0xFFE#16)).pc.toNat + 1 ≤ 0xFFF ∧
      (0x1234#16).toNat = ((placed 0x1234 (atPc 0xFFE#16)).memByte 0xFFE).toNat * 256 +
        ((placed 0x1234 (atPc 0xFFE#16)).memByte 0xFFF).toNat ∧ decode 0x1234#16 = .instr (.jp 0x234#12)) ∧
    (∀ i, decode 0x0000#16 ≠ .instr i) :=
  ⟨by decide, by decide, fun i h => by rw [show decode 0x0000#16 = .unknownOpcode 0x0000#16 by decide] at h; cases h⟩

theorem witness_FaultedStateIsFrozenUntilReset :
    faultedState.run = .faulted .unknownOpcode 0x200#16 0#16 ∧ (List.replicate 3585 0#8).length > 3584 ∧
    (∃ t es, operate .tick faultedState = .next (t, es) ∧ Operation.tick ≠ .reset) :=
  ⟨by decide, by rw [List.length_replicate]; decide, _, _, rfl, by decide⟩

theorem witness_FaultEntryIsPrecise :
    (∃ t es, operate .step State.reset = .next (t, es) ∧ State.reset.isFaulted = false ∧
      t.run = .faulted .unknownOpcode 0x200#16 0#16) ∧
    (∃ t es, operate .step (waitingState.setPc 0xFFE#16) = .next (t, es) ∧ (waitingState.setPc 0xFFE#16).isFaulted = false ∧
      t.run = .faulted .outOfRangeAddress 0xFFE#16 0x1000#16) := by
  constructor
  · obtain ⟨t, es, h, hp⟩ := answer_of (r := operate .step State.reset)
      (p := fun t _ => decide (t.run = .faulted .unknownOpcode 0x200#16 0#16)) (by decide)
    exact ⟨t, es, h, by decide, of_decide_eq_true hp⟩
  · obtain ⟨t, es, h, hp⟩ := answer_of (r := operate .step (waitingState.setPc 0xFFE#16))
      (p := fun t _ => decide (t.run = .faulted .outOfRangeAddress 0xFFE#16 0x1000#16)) (by decide)
    exact ⟨t, es, h, by decide, of_decide_eq_true hp⟩

/-- One witness for each of the checks, at its boundary, and for a completion beside it. -/
theorem witness_FirstFaultInRuleOrder :
    instructionFault? (.call 0x300#12) { State.reset with sp := 16 } = some (.stackOverflow, 0x2300#16) ∧
    instructionFault? .ret State.reset = some (.stackUnderflow, 0x00EE#16) ∧
    instructionFault? .ret (called 0xFFE#16) = some (.outOfRangeAddress, 0x1000#16) ∧
    instructionFault? (.skp 2) (withV [(2, 0x10#8)]) = some (.keyIndexOutOfRange, 0x10#16) ∧
    instructionFault? (.drw 0 0 2) (atI 0xFFF#16) = some (.outOfRangeAddress, 0x1000#16) ∧
    instructionFault? (.ldB 0) (atI 0xFFE#16) = some (.outOfRangeAddress, 0x1000#16) ∧
    instructionFault? (.storeRegs 0xF) (atI 0xFF1#16) = some (.outOfRangeAddress, 0x1000#16) ∧
    instructionFault? (.ldImm 0 0#8) (atPc 0xFFE#16) = some (.outOfRangeAddress, 0x1000#16) ∧
    instructionFault? (.seImm 0 0#8) (atPc 0xFFE#16) = some (.outOfRangeAddress, 0x1002#16) ∧
    instructionFault? (.drw 0 0 0) (atI 0xFFF#16) = none ∧ instructionFault? (.ldB 0) (atI 0xFFD#16) = none ∧
    instructionFault? (.ldVxK 0) (atPc 0xFFE#16) = none := by decide

theorem witness_RunStateMachine :
    ((placed 0xF30A State.reset).run = .running ∧ (placed 0xF30A State.reset).nextInstr? = some (.ldVxK 3)) ∧
    ((placed 0x00E0 State.reset).run = .running ∧ (placed 0x00E0 State.reset).nextInstr? = some .cls) ∧
    (State.reset.run = .running ∧ State.reset.nextInstr? = none) ∧
    ((State.reset.setRun (.awaitingKey 3)).run = .awaitingKey 3 ∧ ∀ k, (State.reset.setRun (.awaitingKey 3)).key.get k = false) ∧
    (waitingState.run = .awaitingKey 3 ∧ waitingState.key.get 7 = true ∧ waitingState.pc.toNat + 2 ≤ 0xFFF) ∧
    ((waitingState.setPc 0xFFE#16).key.get 7 = true ∧ (waitingState.setPc 0xFFE#16).pc = 0xFFE#16) ∧
    (List.replicate 3584 0#8).length ≤ 3584 :=
  ⟨by decide, by decide, by decide, by decide, by decide, by decide, by rw [List.length_replicate]⟩

theorem witness_OnlyJumpsAndWaitsExecuteAtTheTop :
    ∃ t, exec (.jp 0x200#12) (atPc 0xFFE#16) = .next t ∧ t.isFaulted = false ∧ (atPc 0xFFE#16).run = .running := by
  obtain ⟨t, h, hp⟩ := next_of (r := exec (.jp 0x200#12) (atPc 0xFFE#16)) (p := fun t => !t.isFaulted) (by decide)
  exact ⟨t, h, by simpa using hp, by decide⟩

/-- For JumpGoesToItsAddress (its own address) and JumpPlusV0IsNotReduced: 0xFFF is reached, 0x1000 faults. -/
theorem witness_Jumps :
    (0x200#12).toNat = State.reset.pc.toNat ∧ (0xF00#12).toNat + ((withV [(0, 0xFF#8)]).getV 0).toNat ≤ 0xFFF ∧
    (0xF01#12).toNat + ((withV [(0, 0xFF#8)]).getV 0).toNat > 0xFFF := by decide

/-- For CallPushesItsOwnAddress and ReturnResumesAfterTheCall. -/
theorem witness_CallAndReturn :
    ({ State.reset with sp := 15 }).sp.val < 16 ∧ ({ State.reset with sp := 16 }).sp.val = 16 ∧ State.reset.sp.val = 0 ∧
    (called 0xFFD#16).sp.val = (0 : Fin 16).val + 1 ∧ ((called 0xFFD#16).slot 0).toNat + 2 ≤ 0xFFF ∧
    ((called 0xFFE#16).slot 0).toNat + 2 > 0xFFF := by decide

/-- The boundaries of `advance(2)` and `advance(4)`, for RegisterSkips, KeySkips, LoadsAndAddImmediate, BitwiseInstructions,
AddSetsCarry, SubtractAndShiftTable, RandomByteIsMasked, IndexLoadAndAdd, FontAddressIsFiveTimesTheRegister,
ClearBlanksEveryPixel, TimerInstructions. -/
theorem witness_Advance :
    (atPc 0xFFD#16).pc.toNat + 2 ≤ 0xFFF ∧ (atPc 0xFFE#16).pc.toNat + 2 > 0xFFF ∧ (atPc 0xFFB#16).pc.toNat + 4 ≤ 0xFFF ∧
    (atPc 0xFFC#16).pc.toNat + 4 > 0xFFF := by decide

theorem witness_RegisterSkips :
    (withV [(1, 7#8), (2, 7#8)]).getV 1 = (withV [(1, 7#8), (2, 7#8)]).getV 2 ∧
    (withV [(1, 7#8), (2, 8#8)]).getV 1 ≠ (withV [(1, 7#8), (2, 8#8)]).getV 2 := by decide

/-- A call at 0x200 to 0x300, where a return stands. -/
abbrev callingState : State :=
  (State.reset.storeBytes 0x200 [0x23#8]).storeBytes 0x301 [0xEE#8]

theorem witness_CallAndMatchingReturnBalance :
    callingState.nextInstr? = some (.call 0x300#12) ∧ callingState.sp.val < 16 ∧ callingState.pc.toNat + 2 ≤ 0xFFF ∧
    ∃ t u es, step callingState = .next t ∧ operateAll [.tick] t = .next (u, es) ∧
      runAvoids (fun _ => false) [.tick] t = true ∧ runKeepsDepth t.sp.val [.tick] t = true ∧ u.sp = t.sp ∧
      u.nextInstr? = some .ret := by
  refine ⟨by decide, by decide, by decide, ?_⟩
  obtain ⟨t, ht, hp⟩ := next_of (r := step callingState)
    (p := fun t => (answer? (operateAll [.tick] t)).any (fun (a : State × List Event) => (decide (a.1.sp = t.sp) && decide (a.1.nextInstr? = some .ret))
      && (runAvoids (fun _ => false) [.tick] t && runKeepsDepth t.sp.val [.tick] t))) (by decide)
  obtain ⟨u, es, hu, hq⟩ := answer_of (r := operateAll [.tick] t)
    (p := fun u _ => (decide (u.sp = t.sp) && decide (u.nextInstr? = some .ret))
      && (runAvoids (fun _ => false) [.tick] t && runKeepsDepth t.sp.val [.tick] t)) hp
  simp only [Bool.and_eq_true, decide_eq_true_eq] at hq
  exact ⟨t, u, es, ht, hu, hq.2.1, hq.2.2, hq.1.1, hq.1.2⟩

/-- For AddSetsCarry and SubtractAndShiftTable: the cases of R173's table. -/
theorem witness_FlagOperands : (1 : Reg) ≠ Reg.F ∧ (2 : Reg) ≠ Reg.F ∧ (0xF : Reg) = Reg.F := by decide

/-- The last block that fits and the first that does not, for BcdStoresTheDecimalDigits, StoreRegistersFromIndex,
LoadRegistersFromIndex, DrawIsTheParallelXor. -/
theorem witness_Blocks :
    (atI 0xFFD#16).memWf = true ∧ (atI 0xFFD#16).I.toNat + 2 ≤ 0xFFF ∧ (atI 0xFFE#16).I.toNat + 2 > 0xFFF ∧
    (atI 0xFF0#16).I.toNat + (0xF : Reg).val ≤ 0xFFF ∧ (atI 0xFF1#16).I.toNat + (0xF : Reg).val > 0xFFF ∧
    (atI 0xFF1#16).I.toNat + 15 - 1 ≤ 0xFFF ∧ (atI 0xFFF#16).I.toNat + 2 - 1 > 0xFFF ∧ 15 ≤ 15 := by decide

theorem witness_StoredRegistersLoadBack :
    (atI 0x300#16).memWf = true ∧ (atI 0x300#16).I.toNat + (2 : Reg).val ≤ 0xFFF ∧
    ∃ t u w, exec (.storeRegs 2) (atI 0x300#16) = .next t ∧ (∀ a, u.memByte a = t.memByte a) ∧ u.I = (atI 0x300#16).I ∧ u.pc.toNat + 2 ≤ 0xFFF ∧
      exec (.loadRegs 2) u = .next w := by
  refine ⟨by decide, by decide, ?_⟩
  obtain ⟨t, ht, hp⟩ := next_of (r := exec (.storeRegs 2) (atI 0x300#16))
    (p := fun t => decide (t.I = 0x300#16) && decide (t.pc.toNat + 2 ≤ 0xFFF)) (by decide)
  simp only [Bool.and_eq_true, decide_eq_true_eq] at hp
  obtain ⟨w, hw⟩ := exec_total (.loadRegs 2) t
  exact ⟨t, t, w, ht, fun _ => rfl, hp.1, hp.2, hw⟩

/-- Fx55 at 0x200 that writes a jump over 0x202, 0x203. -/
abbrev selfModifying : State := placed 0xF155 (((withV [(0, 0x12#8), (1, 0x34#8)])).setI 0x202#16)

theorem witness_NextFetchSeesTheStore :
    selfModifying.memWf = true ∧ selfModifying.nextInstr? = some (.storeRegs 1) ∧ 1 ≤ (1 : Reg).val ∧
    selfModifying.I.toNat = selfModifying.pc.toNat + 2 ∧ selfModifying.I.toNat + (1 : Reg).val ≤ 0xFFF ∧
    selfModifying.pc.toNat + 3 ≤ 0xFFF ∧ (∃ t, step selfModifying = .next t) ∧
    decode (bigEndian (selfModifying.getV 0) (selfModifying.getV 1)) = .instr (.jp 0x234#12) := by
  obtain ⟨t, ht, -⟩ := next_of (r := step selfModifying) (p := fun _ => true) (by decide)
  exact ⟨by decide, by decide, by decide, by decide, by decide, by decide, ⟨t, ht⟩, by decide⟩

theorem witness_EqualMemoryContentsAreEqualData :
    Memory.wf Font.conventional [(0x300, 1#8)] = true ∧
      ∀ a, a ≤ 0xFFF → Memory.read Font.conventional [(0x300, 1#8)] a = Memory.read Font.conventional [(0x300, 1#8)] a :=
  ⟨by decide, fun _ _ => rfl⟩

/-- A state with a sprite row of one bit at I, and the one after a draw of it. -/
abbrev spriteState : State := (atI 0x300#16).storeBytes 0x300 [0x80#8]

theorem witness_DrawIsTheParallelXor :
    (0 : Nat) = (spriteState.getV 0).toNat ∧ 1 ≤ 15 ∧ spriteState.I.toNat + 1 - 1 ≤ 0xFFF ∧
    spriteState.pc.toNat + 2 ≤ 0xFFF ∧ spriteCovers spriteState 0 0 1 0 0 ∧
    Framebuffer.pixel (spriteState.show (fbOf [(0, 0)])).fb 0 0 = true :=
  ⟨by decide, by decide, by decide, by decide, ⟨0, 0, by decide⟩, by decide⟩

/-- Once with y = VF, which the first draw leaves 0. -/
theorem witness_DrawingTwiceRestoresTheScreen :
    spriteState.run = .running ∧
    ∃ t u, exec (.drw 0 0xF 1) spriteState = .next t ∧ t.run = .running ∧ t.getV 0 = spriteState.getV 0 ∧
      t.getV 0xF = spriteState.getV 0xF ∧ exec (.drw 0 0xF 1) t = .next u ∧ u.run = .running := by
  refine ⟨by decide, ?_⟩
  obtain ⟨t, ht, hp⟩ := next_of (r := exec (.drw 0 0xF 1) spriteState)
    (p := fun t => (decide (t.run = .running) && (decide (t.getV 0 = 0#8) && decide (t.getV 0xF = 0#8)))
      && (nextState? (exec (.drw 0 0xF 1) t)).any (fun (u : State) => decide (u.run = .running)))
    (by decide)
  simp only [Bool.and_eq_true, decide_eq_true_eq] at hp
  obtain ⟨u, hu, hq⟩ := next_of hp.2
  exact ⟨t, u, ht, hp.1.1, hp.1.2.1, hp.1.2.2, hu, of_decide_eq_true hq⟩

theorem witness_KeySkips :
    (0xF : Fin 16).val = ((withV [(2, 0x0F#8)]).getV 2).toNat ∧ ((withV [(2, 0x10#8)]).getV 2).toNat > 0xF ∧
    (State.reset.setKey 0xF true).key.get 0xF = true ∧ State.reset.key.get 0xF = false := by decide

theorem witness_KeyWaitEntersAndPolls :
    waitingState.run = .awaitingKey 3 ∧ waitingState.key.get 7 = true ∧ (∀ j, j < 7 → waitingState.key.get j = false) ∧
    (waitingState.setPc 0xFFD#16).pc.toNat + 2 ≤ 0xFFF ∧ (waitingState.setPc 0xFFE#16).pc.toNat + 2 > 0xFFF ∧
    (∀ k, (State.reset.setRun (.awaitingKey 3)).key.get k = false) := by decide

theorem witness_OnlySetKeyAndResetWriteTheLatch :
    (∃ t es, operate .tick waitingState = .next (t, es) ∧ Operation.tick ≠ .reset ∧ ∀ k b, Operation.tick ≠ .setKey k b) ∧
    (∃ t es, operate (.setKey 0xF true) State.reset = .next (t, es)) ∧ ∃ t es, operate .reset waitingState = .next (t, es) :=
  ⟨⟨_, _, rfl, by decide, by simp⟩, ⟨_, _, rfl⟩, ⟨_, _, rfl⟩⟩

theorem witness_TickCountsBothTimersDown :
    (State.reset.setST 1#8).run = .running ∧ (State.reset.setST 1#8).ST.toNat = 1 ∧ waitingState.run = .awaitingKey 3 := by decide

theorem witness_TimersAfterAnyRun :
    ∃ t es, operateAll [.tick, .snapshot, .tick] (State.reset.setST 2#8) = .next (t, es) ∧ t.isFaulted = false ∧
      runAvoids (fun i => match i with | .ldDtVx _ => true | _ => false) [.tick, .snapshot, .tick] (State.reset.setST 2#8) = true ∧
      runAvoids (fun i => match i with | .ldStVx _ => true | _ => false) [.tick, .snapshot, .tick] (State.reset.setST 2#8) = true ∧
      1 ≤ (State.reset.setST 2#8).ST.toNat ∧ (State.reset.setST 2#8).ST.toNat ≤ tickCount [.tick, .snapshot, .tick] := by
  obtain ⟨t, es, h, hp⟩ := answer_of (r := operateAll [.tick, .snapshot, .tick] (State.reset.setST 2#8))
    (p := fun t _ => !t.isFaulted) (by decide)
  exact ⟨t, es, h, by simpa using hp, by decide, by decide, by decide, by decide⟩

theorem witness_TickCommutesWithStep :
    ((placed 0x6A2F State.reset).nextInstr?.any
      (fun i => match i with | .ldVxDt _ | .ldDtVx _ | .ldStVx _ => true | _ => false) = false) ∧
    ∃ t, step (placed 0x6A2F State.reset) = .next t ∧ t.isFaulted = false := by
  refine ⟨by decide, ?_⟩
  obtain ⟨t, h, hp⟩ := next_of (r := step (placed 0x6A2F State.reset)) (p := fun t => !t.isFaulted) (by decide)
  exact ⟨t, h, by simpa using hp⟩

/-- Also for StepNeverReadsSoundTimerOrDirtyFlag. -/
theorem witness_OnlyFx07ReadsTheDelayTimer :
    (placed 0x6A2F State.reset).nextInstr? = some (.ldImm 0xA 0x2F#8) ∧ ∃ t, step (placed 0x6A2F State.reset) = .next t := by
  obtain ⟨t, h, -⟩ := next_of (r := step (placed 0x6A2F State.reset)) (p := fun _ => true) (by decide)
  exact ⟨by decide, t, h⟩

/-- Two states that differ in the slot above sp (and, as in the three witnesses before, not in `draws`). -/
theorem witness_SlotsAboveTheStackPointerAreInvisible :
    { State.reset with stack := State.reset.stack.set 0 5#16 } =
      { State.reset with stack := ({ State.reset with stack := State.reset.stack.set 0 5#16 } : State).stack } ∧
    (∀ j : Fin 16, j.val < State.reset.sp.val →
      ({ State.reset with stack := State.reset.stack.set 0 5#16 } : State).slot j = State.reset.slot j) ∧
    ∃ t, step State.reset = .next t := by
  obtain ⟨t, h, -⟩ := next_of (r := step State.reset) (p := fun _ => true) (by decide)
  exact ⟨rfl, fun j hj => absurd hj (Nat.not_lt_zero _), t, h⟩

/-- For the three frames: VF under a bitwise instruction, a register above x under Fx65's, and the bytes on both sides of a stored block. -/
theorem witness_Frames :
    (Instr.orReg 1 2).hasDestination 0xF = false ∧ (Instr.orReg 1 2).writesFlag = false ∧
    (Instr.addReg 1 2).hasDestination 2 = false ∧ (Instr.loadRegs 3).hasDestination 4 = false ∧
    (0x300 : Nat) = (atI 0x300#16).dataAddress 0 ∧ (0x2FF < 0x300) ∧ 0x300 + (Instr.storeRegs 3).storedBytes ≤ 0x304 ∧
    ∃ t, exec (.storeRegs 3) (atI 0x300#16) = .next t := by
  obtain ⟨t, h⟩ := exec_total (.storeRegs 3) (atI 0x300#16)
  exact ⟨by decide, by decide, by decide, by decide, by decide, by decide, by decide, t, h⟩

/-- For StepKeepsTheInvariant, EveryOperationKeepsTheInvariant, EveryReachableStateMeetsTheInvariant: the state after reset
meets the invariant's clauses, and a step and a run of operations answer from it. -/
theorem witness_Invariant :
    State.reset.memWf = true ∧ State.reset.I.toNat ≤ 0xFFF ∧ State.reset.pc.toNat ≤ 0xFFF ∧
    (∀ j, (State.reset.slot j).toNat ≤ 0xFFE) ∧ State.reset.run = .running ∧ (∃ t, step State.reset = .next t) ∧
    ∃ t es, operateAll [.tick, .setKey 3 true] State.reset = .next (t, es) := by
  obtain ⟨t, h, -⟩ := next_of (r := step State.reset) (p := fun _ => true) (by decide)
  exact ⟨by decide, by decide, by decide, by decide, by decide, ⟨t, h⟩, _, _, rfl⟩

/-- For LoadGameCopiesVerbatim and OverlongLoadFaultsAndSnapshotAcknowledges. -/
theorem witness_Loads :
    State.reset.memWf = true ∧ (List.replicate 3584 0xAA#8).length ≤ 3584 ∧ (List.replicate 3585 0xAA#8).length > 3584 ∧
    State.reset.isFaulted = false ∧ faultedState.isFaulted = true :=
  ⟨by decide, by rw [List.length_replicate], by rw [List.length_replicate]; decide, by decide, by decide⟩

/-- Two engines of different fonts whose memories hold the same bytes: the second one's list holds the first font's byte at
0x000. -/
theorem witness_FontIsAParameter :
    let s := State.resetWith (Vector.replicate 80 1#8)
    let u := (State.resetWith ((Vector.replicate 80 1#8).set 0 2#8)).storeBytes 0 [1#8]
    s.memWf = true ∧ u.memWf = true ∧ u = { s with mem := u.mem, font := u.font } ∧ u.font ≠ s.font ∧
      (∀ a, a ≤ 0xFFF → u.memByte a = s.memByte a) ∧ ∃ t, step s = .next t := by
  refine ⟨by decide, by decide, by decide, by decide, fun a _ => ?_, ?_⟩
  · by_cases h0 : a = 0
    · subst h0; decide
    · rw [memByte_storeBytes_other _ (.inr (by simp; omega)), memByte_resetWith, memByte_resetWith]
      unfold Font.resetByte
      split
      · exact Vector.getElem_set_ne _ _ (Ne.symm h0)
      · rfl
  · obtain ⟨t, h, -⟩ := next_of (r := step (State.resetWith (Vector.replicate 80 1#8))) (p := fun _ => true) (by decide)
    exact ⟨t, h⟩

/-- R35 and R42: FONT is where `reset()` puts it, in an engine of any font. -/
theorem test_reset_installs_font (font : Font) :
    (State.resetWith font).memByte 79 = font.get 79 ∧ (State.resetWith font).memByte 80 = 0#8 := ⟨rfl, rfl⟩

theorem witness_SelfJumpIsIdle :
    (placed 0x1200 State.reset).nextInstr? = some (.jp 0x200#12) ∧ (0x200#12).toNat = (placed 0x1200 State.reset).pc.toNat := by
  decide

end Sys2Proof.Tests
end

/-! ### The step and the operations, said once (rules R12, R113, R120, R266) -/

namespace Sys2Proof.Machine

/-- A return with a slot in use pops it (R140). -/
theorem execRet_of_pos {s : State} (h : 0 < s.sp.val) :
    execRet s = commit s (s.pop h) ((s.top h).toNat + 2) := dif_pos h

theorem execRet_of_empty {s : State} (h : ¬ 0 < s.sp.val) :
    execRet s = raise s .stackUnderflow (encode .ret) := dif_neg h

/-- A call with a slot free pushes its own address (R142). -/
theorem execCall_of_lt {s : State} (nnn : Addr12) (h : s.sp.val < 16) :
    execCall nnn s = commit s (s.push h s.pc) (nnnAddress nnn).toNat := dif_pos h

theorem execCall_of_full {s : State} (nnn : Addr12) (h : ¬ s.sp.val < 16) :
    execCall nnn s = raise s .stackOverflow (encode (.call nnn)) := dif_neg h

/-- A step in Running executes the instruction it fetched or raises a fault: no third answer (R121, R122). -/
theorem step_running_cases {s : State} (h : s.run = .running) :
    (∃ i, s.nextInstr? = some i ∧ step s = exec i s) ∨
    (s.nextInstr? = none ∧ ∃ c info, step s = raise s c info) := by
  simp only [step_of_running h, stepRunning, State.nextInstr?, h]
  cases fetch? s with
  | none => exact .inr ⟨rfl, _, _, rfl⟩
  | some op =>
    simp only [runOpcode, Option.bind_some]
    cases decode op with
    | instr i => exact .inl ⟨i, rfl, rfl⟩
    | unknownOpcode _ => exact .inr ⟨rfl, _, _, rfl⟩
    | truncated => exact .inr ⟨rfl, _, _, rfl⟩

/-- The state with a key-wait poll's writes except that of pc (R231). -/
def pollWrites (x : Reg) (k : Fin 16) (s : State) : State := (s.setV x (BitVec.ofNat 8 k.val)).setRun .running

theorem pollKey_of_none {s : State} {x : Reg} (h : lowestKey? s.key = none) : pollKey x s = .next s := by
  simp only [pollKey, h]

theorem pollKey_of_some {s : State} {x : Reg} {k : Fin 16} (h : lowestKey? s.key = some k) :
    pollKey x s = advance 2 s (pollWrites x k s) := by
  simp only [pollKey, h, pollWrites]

/-- Everything a step can do: a fault with only `run` changed; nothing; an instruction; a completed key-wait poll. -/
theorem step_cases {s t : State} (h : step s = .next t) :
    isFaultOf s t ∨ (s.run ≠ .running ∧ t = s) ∨
    (∃ i, s.nextInstr? = some i ∧ exec i s = .next t) ∨
    (∃ x k, s.run = .awaitingKey x ∧ lowestKey? s.key = some k ∧ ∃ w : Word, t = (pollWrites x k s).setPc w) := by
  cases hr : s.run with
  | running =>
    rcases step_running_cases hr with ⟨i, hi, hstep⟩ | ⟨-, c, info, hstep⟩
    · exact .inr (.inr (.inl ⟨i, hi, hstep ▸ h⟩))
    · rw [hstep, raise_eq] at h
      injection h with h
      exact .inl ⟨c, info, h.symm⟩
  | awaitingKey x =>
    rw [step_of_awaiting hr] at h
    cases hk : lowestKey? s.key with
    | none =>
      rw [pollKey_of_none hk] at h
      injection h with h
      exact .inr (.inl ⟨Run.noConfusion, h.symm⟩)
    | some k =>
      rw [pollKey_of_some hk] at h
      exact (commit_fault_or h).imp_right fun hw => .inr (.inr ⟨x, k, rfl, rfl, hw⟩)
  | faulted c p info =>
    rw [step_of_faulted hr] at h
    injection h with h
    exact .inr (.inl ⟨Run.noConfusion, h.symm⟩)

/-- The write of pc always answers a next state. -/
theorem commit_total (s s' : State) (k : Nat) : ∃ t, commit s s' k = .next t := by
  rcases Nat.lt_or_ge 0xFFF k with hk | hk
  · exact ⟨_, commit_of_gt s s' hk⟩
  · exact ⟨_, commit_of_le s s' hk⟩

/-- `step()` always answers a next state (R12, R113, R132). -/
theorem step_total (s : State) : ∃ t, step s = .next t := by
  cases hr : s.run with
  | running =>
    rcases step_running_cases hr with ⟨i, -, hstep⟩ | ⟨-, c, info, hstep⟩
    · exact hstep ▸ exec_total i s
    · exact ⟨_, hstep⟩
  | awaitingKey x =>
    rw [step_of_awaiting hr]
    cases hk : lowestKey? s.key with
    | none => exact ⟨s, pollKey_of_none hk⟩
    | some k => exact pollKey_of_some hk ▸ commit_total s _ _
  | faulted c p info => exact ⟨s, step_of_faulted hr⟩

theorem operate_step {s t : State} (h : step s = .next t) : operate .step s = .next (t, []) := by
  simp only [operate, h]

/-- `step()` as an operation is `step` and emits nothing (R12). -/
theorem operate_step_iff {s t : State} {es : List Event} :
    operate .step s = .next (t, es) ↔ step s = .next t ∧ es = [] := by
  obtain ⟨u, hu⟩ := step_total s
  simp [operate_step hu, hu, eq_comm]

/-- Every operation always answers a next state (R12). -/
theorem operate_total (op : Operation) (s : State) : ∃ t es, operate op s = .next (t, es) := by
  cases op with
  | step =>
    obtain ⟨t, ht⟩ := step_total s
    exact ⟨t, [], operate_step ht⟩
  | _ => exact ⟨_, _, rfl⟩

/-! ### Faults are precise (rules R11, R266) -/

/-- An instruction's own writes leave `run` alone, but for Fx0A, which enters the wait (R123, R230). -/
theorem writes_run (i : Instr) (s : State) : (writes i s).run = runAfter i s := by
  cases i with
  | ret => simp only [writes, runAfter]; split <;> rfl
  | call nnn => simp only [writes, runAfter]; split <;> rfl
  | _ => rfl

theorem isFaulted_of_run {s : State} {c : Cause} {p info : Word} (h : s.run = .faulted c p info) :
    s.isFaulted = true := by
  simp only [State.isFaulted, h]

theorem isFaulted_congr {s t : State} (h : t.run = s.run) : t.isFaulted = s.isFaulted := by
  simp only [State.isFaulted, h]

/-- What an instruction leaves in `run` is Faulted only if it was before. -/
theorem isFaulted_of_runAfter {i : Instr} {s t : State} (h : t.run = runAfter i s) (hs : s.isFaulted = false) :
    t.isFaulted = false := by
  cases i with
  | ldVxK x => rw [State.isFaulted, show t.run = .awaitingKey x from h]
  | _ => exact (isFaulted_congr h).trans hs

/-- A step that is no fault entry leaves an engine that has not faulted as one that has not. -/
theorem step_fault_or {s t : State} (h : step s = .next t) (hs : s.isFaulted = false) :
    isFaultOf s t ∨ t.isFaulted = false := by
  rcases step_cases h with hf | ⟨-, rfl⟩ | ⟨i, -, hi⟩ | ⟨x, k, -, -, w, rfl⟩
  · exact .inl hf
  · exact .inr hs
  · rcases exec_cases hi with hf | ⟨w, rfl⟩
    · exact .inl hf
    · exact .inr (isFaulted_of_runAfter (writes_run i s) hs)
  · exact .inr rfl

theorem tick_run (s : State) : s.tick.run = s.run := by
  unfold State.tick
  split <;> rfl

theorem loadGame_of_le {s : State} {bytes : List Byte} (h : bytes.length ≤ 3584) :
    s.loadGame bytes = s.storeBytes 0x200 bytes := if_pos h

/-- An over-long load faults, unless the engine has faulted already (R292). -/
theorem loadGame_of_gt {s : State} {bytes : List Byte} (h : bytes.length > 3584) :
    s.loadGame bytes = if s.isFaulted then s else s.enterFault .outOfRangeAddress 0x1000#16 :=
  if_neg (Nat.not_le.mpr h)

/-- An operation that is no fault entry leaves an engine that has not faulted as one that has not. -/
theorem operate_fault_or {op : Operation} {s t : State} {es : List Event} (h : operate op s = .next (t, es))
    (hs : s.isFaulted = false) : (isFaultOf s t ∧ es = []) ∨ t.isFaulted = false := by
  cases op with
  | step =>
    obtain ⟨ht, rfl⟩ := operate_step_iff.mp h
    exact (step_fault_or ht hs).imp_left fun hf => ⟨hf, rfl⟩
  | reset => cases h; exact .inr rfl
  | loadGame bytes =>
    cases h
    rcases Nat.lt_or_ge 3584 bytes.length with hlen | hlen
    · rw [loadGame_of_gt hlen, hs]
      exact .inl ⟨⟨_, _, rfl⟩, rfl⟩
    · rw [loadGame_of_le hlen]
      exact .inr hs
  | tick => cases h; exact .inr ((isFaulted_congr (tick_run s)).trans hs)
  | setKey k pressed => cases h; exact .inr hs
  | snapshot => cases h; exact .inr hs

/-! ### The parameter FONT (rules R7, R40) -/

/-- No instruction writes FONT. -/
theorem writes_font (i : Instr) (s : State) : (writes i s).font = s.font := by
  cases i with
  | ret => simp only [writes]; split <;> rfl
  | call nnn => simp only [writes]; split <;> rfl
  | _ => rfl

theorem step_font {s t : State} (h : step s = .next t) : t.font = s.font := by
  rcases step_cases h with ⟨c, info, rfl⟩ | ⟨-, rfl⟩ | ⟨i, -, hi⟩ | ⟨x, k, -, -, w, rfl⟩
  · rfl
  · rfl
  · rcases exec_cases hi with ⟨c, info, rfl⟩ | ⟨w, rfl⟩
    · rfl
    · exact writes_font i s
  · rfl

/-- No operation writes FONT, `reset()` included (R40). -/
theorem operate_font {op : Operation} {s t : State} {es : List Event} (h : operate op s = .next (t, es)) :
    t.font = s.font := by
  cases op with
  | step => exact step_font (operate_step_iff.mp h).1
  | loadGame bytes => cases h; unfold State.loadGame; split_ifs <;> rfl
  | tick => cases h; unfold State.tick; split <;> rfl
  | reset => cases h; rfl
  | setKey k pressed => cases h; rfl
  | snapshot => cases h; rfl

/-! ### A step in an engine of another font with the same bytes in memory: a simulation -/

/-- The state in an engine of another font, its memory held as the list `m`. -/
def State.withMemory (s : State) (font : Font) (m : Memory) : State := { s with mem := m, font := font }

/-- `u` is `s` in an engine of another font with the same bytes in memory, both lists canonical. -/
structure SameBytes (s u : State) : Prop where
  frame : ∃ font m, u = s.withMemory font m
  bytes : ∀ a, a ≤ 0xFFF → u.memByte a = s.memByte a
  wf_left : s.memWf = true
  wf_right : u.memWf = true

/-- Where `r` is a next state, `r'` is one with the same bytes. -/
def AnswersSameBytes (r r' : Result) : Prop := ∀ t, r = .next t → ∃ w, r' = .next w ∧ SameBytes t w

variable {s u : State}

theorem SameBytes.next (h : SameBytes s u) : AnswersSameBytes (.next s) (.next u) := by
  rintro t ⟨⟩
  exact ⟨u, rfl, h⟩

/-- A write of any item but memory keeps the bytes the same. -/
theorem SameBytes.update {font : Font} {m : Memory} (h : SameBytes s (s.withMemory font m)) (s' : State)
    (hm : s'.mem = s.mem) (hf : s'.font = s.font) : SameBytes s' (s'.withMemory font m) where
  frame := ⟨font, m, rfl⟩
  bytes a ha := (h.bytes a ha).trans (memByte_congr hf hm a).symm
  wf_left := by rw [State.memWf, hm, hf]; exact h.wf_left
  wf_right := h.wf_right

theorem SameBytes.raise (h : SameBytes s u) (c : Cause) (info : Word) :
    AnswersSameBytes (raise s c info) (raise u c info) := by
  obtain ⟨font, m, rfl⟩ := h.frame
  exact (h.update (s.enterFault c info) rfl rfl).next

theorem SameBytes.setPc (h : SameBytes s u) (w : Word) : SameBytes (s.setPc w) (u.setPc w) := by
  obtain ⟨font, m, rfl⟩ := h.frame
  exact h.update (s.setPc w) rfl rfl

theorem SameBytes.commit {s' u' : State} (h : SameBytes s u) (h' : SameBytes s' u') (k : Nat) :
    AnswersSameBytes (commit s s' k) (commit u u' k) := by
  unfold Machine.commit
  split
  · exact h.raise _ _
  · exact (h'.setPc _).next

theorem SameBytes.advance {s' u' : State} (h : SameBytes s u) (h' : SameBytes s' u') (k : Nat) :
    AnswersSameBytes (advance k s s') (advance k u u') := by
  obtain ⟨font, m, rfl⟩ := h.frame
  exact h.commit h' _

theorem SameBytes.withBlock (h : SameBytes s u) {count : Nat} {body body' : Result}
    (hbody : s.blockFits count = true → AnswersSameBytes body body') :
    AnswersSameBytes (withBlock s count body) (withBlock u count body') := by
  have hfits : u.blockFits count = s.blockFits count := by
    obtain ⟨font, m, rfl⟩ := h.frame
    rfl
  rw [Machine.withBlock, Machine.withBlock, hfits]
  split
  · next hs => exact hbody hs
  · exact h.raise _ _

theorem SameBytes.skipOnKey (h : SameBytes s u) (x : Reg) (down : Bool) :
    AnswersSameBytes (skipOnKey x down s) (skipOnKey x down u) := by
  have hu : u.getV x = s.getV x ∧ u.key = s.key := by
    obtain ⟨font, m, rfl⟩ := h.frame
    exact ⟨rfl, rfl⟩
  simp only [Machine.skipOnKey, hu]
  split
  · exact h.advance h _
  · exact h.raise _ _

/-- The bytes of a block that fits are bytes of memory (R64, R75). -/
theorem dataAddress_le {count k : Nat} (hfits : s.blockFits count = true) (hk : k < count) : s.dataAddress k ≤ 0xFFF := by
  have := (blockFits_iff s count).mp hfits
  simp only [State.dataAddress]
  omega

/-- A sprite is drawn alike on the same framebuffer from the same bytes (R212). -/
theorem drawSprite_congr (hfb : u.fb = s.fb) (vx vy n : Nat)
    (hbytes : ∀ i < n, u.memByte (u.dataAddress i) = s.memByte (s.dataAddress i)) :
    drawSprite u vx vy n = drawSprite s vx vy n := by
  induction n with
  | zero => simp only [drawSprite_zero, hfb]
  | succ n ih =>
    rw [drawSprite_succ, drawSprite_succ, ih fun i hi => hbytes i (by omega), hbytes n (by omega)]

theorem SameBytes.draw (h : SameBytes s u) (x y : Reg) (n : Nat) (hfits : s.blockFits n = true) :
    SameBytes (writes (.drw x y n) s) (writes (.drw x y n) u) := by
  obtain ⟨font, m, rfl⟩ := h.frame
  have hd : drawSprite (s.withMemory font m) (s.getV x).toNat (s.getV y).toNat n =
      drawSprite s (s.getV x).toNat (s.getV y).toNat n :=
    drawSprite_congr (s := s) (u := s.withMemory font m) rfl _ _ n fun i hi => h.bytes _ (dataAddress_le hfits hi)
  have hw : writes (.drw x y n) (s.withMemory font m) = (writes (.drw x y n) s).withMemory font m :=
    congrArg (fun d : Drawing => ((s.setFlag d.collision).show d.fb).withMemory font m) hd
  rw [hw]
  exact h.update _ rfl rfl

theorem SameBytes.storeBytes (h : SameBytes s u) {a : Nat} {bs : List Byte} (hlen : a + bs.length ≤ 0x1000) :
    SameBytes (s.storeBytes a bs) (u.storeBytes a bs) where
  frame := by
    obtain ⟨font, m, rfl⟩ := h.frame
    exact ⟨font, _, rfl⟩
  bytes a' ha' := by
    rw [memByte_storeBytes a' h.wf_right hlen, memByte_storeBytes a' h.wf_left hlen, h.bytes a' ha']
  wf_left := memWf_storeBytes h.wf_left hlen
  wf_right := memWf_storeBytes h.wf_right hlen

/-- The store of a block, Fx33's and Fx55's (R193, R194). -/
theorem SameBytes.storeBlock (h : SameBytes s u) {bs : List Byte} (hne : bs ≠ []) :
    AnswersSameBytes (storeBlock s bs) (storeBlock u bs) := by
  refine h.withBlock fun hfits => h.advance ?_ 2
  have hpos : 0 < bs.length := List.length_pos_iff.mpr hne
  have hlen : s.I.toNat + (bs.length - 1) ≤ 0xFFF := dataAddress_le hfits (by omega)
  have hstore := h.storeBytes (a := s.dataAddress 0) (bs := bs) (by simp only [State.dataAddress]; omega)
  obtain ⟨font, m, rfl⟩ := h.frame
  exact hstore

theorem SameBytes.loadRegsFrom (h : SameBytes s u) {x : Reg} {a : Nat} (ha : a + x.val ≤ 0xFFF) :
    SameBytes (s.loadRegsFrom x a) (u.loadRegsFrom x a) := by
  obtain ⟨font, m, rfl⟩ := h.frame
  have hV : ((s.withMemory font m).loadRegsFrom x a).V = (s.loadRegsFrom x a).V := Vector.ext fun k hk => by
    have hget : ((s.withMemory font m).loadRegsFrom x a).getV ⟨k, hk⟩ = (s.loadRegsFrom x a).getV ⟨k, hk⟩ := by
      rw [getV_loadRegsFrom, getV_loadRegsFrom]
      split
      · next hle => exact h.bytes _ (Nat.le_trans (Nat.add_le_add_left hle a) ha)
      · rfl
    exact hget
  have hload : (s.withMemory font m).loadRegsFrom x a = (s.loadRegsFrom x a).withMemory font m :=
    congrArg (fun V => ({ s with V := V } : State).withMemory font m) hV
  rw [hload]
  exact h.update _ rfl rfl

theorem SameBytes.execRet (h : SameBytes s u) : AnswersSameBytes (execRet s) (execRet u) := by
  obtain ⟨font, m, rfl⟩ := h.frame
  by_cases hsp : 0 < s.sp.val
  · rw [execRet_of_pos hsp, execRet_of_pos (s := s.withMemory font m) hsp]
    exact h.commit (h.update (s.pop hsp) rfl rfl) _
  · rw [execRet_of_empty hsp, execRet_of_empty (s := s.withMemory font m) hsp]
    exact h.raise _ _

theorem SameBytes.execCall (h : SameBytes s u) (nnn : Addr12) : AnswersSameBytes (execCall nnn s) (execCall nnn u) := by
  obtain ⟨font, m, rfl⟩ := h.frame
  by_cases hsp : s.sp.val < 16
  · rw [execCall_of_lt nnn hsp, execCall_of_lt nnn (s := s.withMemory font m) hsp]
    exact h.commit (h.update (s.push hsp s.pc) rfl rfl) _
  · rw [execCall_of_full nnn hsp, execCall_of_full nnn (s := s.withMemory font m) hsp]
    exact h.raise _ _

/-- An instruction reads FONT through memory alone. -/
theorem SameBytes.exec (h : SameBytes s u) (i : Instr) : AnswersSameBytes (exec i s) (exec i u) := by
  obtain ⟨font, m, rfl⟩ := h.frame
  cases i with
  | ret => exact h.execRet
  | call nnn => exact h.execCall nnn
  | skp x => exact h.skipOnKey x true
  | sknp x => exact h.skipOnKey x false
  | drw x y n => exact h.withBlock fun hfits => h.advance (h.draw x y n hfits) 2
  | ldB x => exact h.storeBlock (List.cons_ne_nil _ _)
  | storeRegs x => exact h.storeBlock (List.ne_nil_of_length_pos (by rw [regsTo_length]; omega))
  | loadRegs x =>
    exact h.withBlock fun hfits => h.advance (h.loadRegsFrom (dataAddress_le hfits (Nat.lt_succ_self _))) 2
  | ldVxK x => exact (h.update (s.setRun (.awaitingKey x)) rfl rfl).next
  | _ =>
    -- the other instructions neither read nor write memory
    refine h.commit ?_ _
    exact h.update _ rfl rfl

theorem SameBytes.fetch (h : SameBytes s u) : fetch? u = fetch? s := by
  have hpc : u.pc = s.pc := by
    obtain ⟨font, m, rfl⟩ := h.frame
    rfl
  unfold fetch?
  rw [hpc]
  split
  · rfl
  · next hle =>
    rw [State.memWord, State.memWord, h.bytes _ (by omega), h.bytes _ (by omega)]

theorem SameBytes.stepRunning (h : SameBytes s u) : AnswersSameBytes (stepRunning s) (stepRunning u) := by
  unfold Machine.stepRunning
  rw [h.fetch]
  split
  · exact h.raise _ _
  · unfold runOpcode
    split
    · exact h.exec _
    · exact h.raise _ _
    · exact h.raise _ _

theorem SameBytes.pollKey (h : SameBytes s u) (x : Reg) : AnswersSameBytes (pollKey x s) (pollKey x u) := by
  obtain ⟨font, m, rfl⟩ := h.frame
  cases hk : lowestKey? s.key with
  | none =>
    rw [pollKey_of_none hk, pollKey_of_none (s := s.withMemory font m) hk]
    exact h.next
  | some k =>
    rw [pollKey_of_some hk, pollKey_of_some (s := s.withMemory font m) hk]
    exact h.advance (h.update (pollWrites x k s) rfl rfl) _

/-- A step reads FONT through memory alone. -/
theorem SameBytes.step (h : SameBytes s u) : AnswersSameBytes (step s) (step u) := by
  have hrun : u.run = s.run := by
    obtain ⟨font, m, rfl⟩ := h.frame
    rfl
  cases hr : s.run with
  | running =>
    rw [step_of_running hr, step_of_running (hrun.trans hr)]
    exact h.stepRunning
  | awaitingKey x =>
    rw [step_of_awaiting hr, step_of_awaiting (hrun.trans hr)]
    exact h.pollKey x
  | faulted c p info =>
    rw [step_of_faulted hr, step_of_faulted (hrun.trans hr)]
    exact h.next

end Sys2Proof.Machine

section
/-! ### The statements of 00_scope.md -/

open Sys2Proof.Machine

/-- Settles O8: by `operate_fault_or` the operation is a fault entry, and its record is the one that is seen. -/
theorem faultEntryIsPrecise : Obligations.FaultEntryIsPrecise := by
  intro op s t es c p info h hs hrun
  rcases operate_fault_or h hs with ⟨⟨c', info', rfl⟩, hes⟩ | ht
  · cases hrun
    exact ⟨rfl, hes⟩
  · rw [isFaulted_of_run hrun] at ht
    cases ht

/-- Settles O9: `step_total` and `operate_total`. -/
theorem everyOperationAnswersANextState : Obligations.EveryOperationAnswersANextState :=
  ⟨step_total, operate_total⟩

/-- Settles O56: by `operate_font` no operation writes FONT; by `SameBytes.step` engines with the same bytes in memory
execute the same step. -/
theorem fontIsAParameter : Obligations.FontIsAParameter := by
  refine ⟨fun op s t es h => operate_font h, fun s u t hs hu hframe hbytes hstep => ?_⟩
  have hsame : SameBytes s u := ⟨⟨u.font, u.mem, hframe⟩, hbytes, hs, hu⟩
  obtain ⟨w, hw, hsame'⟩ := hsame.step t hstep
  have hfont : w.font = u.font := step_font hw
  obtain ⟨font, m, rfl⟩ := hsame'.frame
  exact ⟨_, hw, hfont ▸ rfl, hsame'.bytes⟩

end

/-! ### The decoder's two answers (rules R110, R113) -/

namespace Sys2Proof

/-- The decoder's answer is an instruction, or the word itself as an unknown opcode. -/
def AnswersWord (op : Word) (d : Decoded) : Prop := (∃ i, d = .instr i) ∨ d = .unknownOpcode op

theorem answersWord_instr (op : Word) (i : Instr) : AnswersWord op (.instr i) := .inl ⟨i, rfl⟩

theorem answersWord_unknown (op : Word) : AnswersWord op (.unknownOpcode op) := .inr rfl

theorem decodeFamily0_answers (op : Word) : AnswersWord op (decodeFamily0 op) := by
  unfold decodeFamily0
  split_ifs
  · exact answersWord_instr op _
  · exact answersWord_instr op _
  · exact answersWord_unknown op

theorem decodeFamily59_answers (i : Instr) (op : Word) : AnswersWord op (decodeFamily59 i op) := by
  unfold decodeFamily59
  split_ifs
  · exact answersWord_instr op _
  · exact answersWord_unknown op

theorem decodeFamily8_answers (op : Word) : AnswersWord op (decodeFamily8 op) := by
  unfold decodeFamily8
  split <;> simp [AnswersWord]

theorem decodeFamilyE_answers (op : Word) : AnswersWord op (decodeFamilyE op) := by
  unfold decodeFamilyE
  split <;> simp [AnswersWord]

theorem decodeFamilyF_answers (op : Word) : AnswersWord op (decodeFamilyF op) := by
  unfold decodeFamilyF
  split <;> simp [AnswersWord]

/-- A word decodes to an instruction or is rejected as the word it is: a fetched word is never truncated (R113). -/
theorem decode_answers (op : Word) : AnswersWord op (decode op) := by
  unfold decode
  split
  · exact decodeFamily0_answers op
  case h_6 => exact decodeFamily59_answers _ op
  case h_9 => exact decodeFamily8_answers op
  case h_10 => exact decodeFamily59_answers _ op
  case h_15 => exact decodeFamilyE_answers op
  case h_16 => exact decodeFamilyF_answers op
  case h_17 => exact answersWord_unknown op
  all_goals exact answersWord_instr op _

end Sys2Proof

/-! ### An instruction answers what the rules list: its first fault, or its writes and its target (R127) -/

namespace Sys2Proof.Machine

/-- The state an instruction that does not fault leaves: its writes, and its target in pc where it has one (R124). -/
def completed (i : Instr) (s : State) : State :=
  (writes i s).setPc (BitVec.ofNat 16 ((pcTarget? i s).getD s.pc.toNat))

/-- Fx0A enters the wait and leaves pc (R230). -/
theorem completed_ldVxK (x : Reg) (s : State) : completed (.ldVxK x) s = s.setRun (.awaitingKey x) :=
  congrArg (s.setRun (.awaitingKey x)).setPc ((BitVec.ofNat_toNat 16 s.pc).trans (BitVec.setWidth_eq s.pc))

/-- What the rules list for an instruction: its first fault, or its completion. -/
def answerByRules (i : Instr) (s : State) : Result :=
  (instructionFault? i s).elim (.next (completed i s)) fun f => raise s f.1 f.2

theorem answerByRules_of_fault {i : Instr} {s : State} {f : Cause × Word} (h : instructionFault? i s = some f) :
    answerByRules i s = raise s f.1 f.2 := by
  simp only [answerByRules, h, Option.elim_some]

theorem answerByRules_of_completes {i : Instr} {s : State} (h : instructionFault? i s = none) :
    answerByRules i s = .next (completed i s) := by
  simp only [answerByRules, h, Option.elim_none]

/-- The operand check comes first (R127). -/
theorem instructionFault?_of_operand {i : Instr} {s : State} {f : Cause × Word} (h : operandFault? i s = some f) :
    instructionFault? i s = some f := by
  simp only [instructionFault?, h]

/-- Where the operand check passes, the write of the target decides (R127). -/
theorem instructionFault?_of_target {i : Instr} {s : State} {t : Nat} (hop : operandFault? i s = none)
    (ht : pcTarget? i s = some t) :
    instructionFault? i s = if t > 0xFFF then some (.outOfRangeAddress, BitVec.ofNat 16 t) else none := by
  simp only [instructionFault?, hop, ht]

/-- Where the operand check passes, the instruction ends in the write of its target. -/
theorem commit_eq_answer (i : Instr) (s : State) {t : Nat} (hop : operandFault? i s = none)
    (ht : pcTarget? i s = some t) : commit s (writes i s) t = answerByRules i s := by
  have hf := instructionFault?_of_target hop ht
  rcases Nat.lt_or_ge 0xFFF t with hgt | hle
  · rw [commit_of_gt _ _ hgt, answerByRules_of_fault (hf.trans (if_pos hgt)), raise_eq]
  · rw [commit_of_le _ _ hle, answerByRules_of_completes (hf.trans (if_neg (Nat.not_lt.mpr hle))), completed, ht,
      Option.getD_some]

/-- Where the operand check fails, the instruction ends in its fault. -/
theorem raise_eq_answer (i : Instr) (s : State) {c : Cause} {info : Word} (hop : operandFault? i s = some (c, info)) :
    raise s c info = answerByRules i s :=
  (answerByRules_of_fault (instructionFault?_of_operand hop)).symm

theorem encode_call (nnn : Addr12) : encode (.call nnn) = BitVec.ofNat 16 (0x2000 + nnn.toNat) := by
  refine BitVec.eq_of_toNat_eq ((formatA_toNat _ nnn).trans ?_)
  simp only [BitVec.toNat_ofNat]
  omega

/-- The slot a return's target names (R140). -/
theorem stack_getD (s : State) {j : Nat} (h : j < 16) : s.stack.toList.getD j 0#16 = s.slot ⟨j, h⟩ := by
  rw [List.getD_eq_getElem _ _ (by simpa using h)]
  rfl

/-- A register that names a key names the flag that `keyDown` reads (R227). -/
theorem keyDown_of_keyIndex? {s : State} {x : Reg} {k : Fin 16} (h : keyIndex? (s.getV x) = some k) :
    s.keyDown x = s.key.get k := by
  rw [State.keyDown, ← (keyIndex?_eq_some _ _).mp h, List.getD_eq_getElem _ _ (by simp)]
  rfl

theorem execRet_eq_answer (s : State) : execRet s = answerByRules .ret s := by
  by_cases hsp : 0 < s.sp.val
  · have hw : s.pop hsp = writes .ret s := (dif_pos hsp).symm
    rw [execRet_of_pos hsp, hw, State.top, ← stack_getD s (by omega)]
    exact commit_eq_answer .ret s (if_neg (by omega)) rfl
  · rw [execRet_of_empty hsp]
    exact raise_eq_answer .ret s (if_pos (by omega))

theorem execCall_eq_answer (nnn : Addr12) (s : State) : execCall nnn s = answerByRules (.call nnn) s := by
  by_cases hsp : s.sp.val < 16
  · have hw : s.push hsp s.pc = writes (.call nnn) s := by rw [writes, dif_pos hsp]
    rw [execCall_of_lt nnn hsp, hw, nnnAddress_toNat]
    exact commit_eq_answer (.call nnn) s (if_neg (by omega)) rfl
  · rw [execCall_of_full nnn hsp, encode_call]
    exact raise_eq_answer (.call nnn) s (if_pos (by omega))

/-- A key skip: `i` is Ex9E (`down`) or ExA1 (R227, R228). -/
theorem skipOnKey_eq_answer (i : Instr) (s : State) {x : Reg} {down : Bool}
    (hop : operandFault? i s =
      if (s.getV x).toNat > 0xF then some (.keyIndexOutOfRange, BitVec.ofNat 16 (s.getV x).toNat) else none)
    (ht : pcTarget? i s = some (s.pc.toNat + skipDistance (s.keyDown x == down))) (hw : writes i s = s) :
    skipOnKey x down s = answerByRules i s := by
  unfold skipOnKey
  cases hk : keyIndex? (s.getV x) with
  | none =>
    rw [if_pos ((keyIndex?_eq_none _).mp hk), BitVec.ofNat_toNat] at hop
    exact raise_eq_answer i s hop
  | some k =>
    have hle : ¬ (s.getV x).toNat > 0xF := by rw [← (keyIndex?_eq_some _ _).mp hk]; omega
    rw [keyDown_of_keyIndex? hk] at ht
    have hanswer := commit_eq_answer i s (hop.trans (if_neg hle)) ht
    rwa [hw] at hanswer

/-- An instruction with a data block of `count` bytes at I, its range check written as `p` (R64). -/
theorem withBlock_eq_answer (i : Instr) (s : State) (count : Nat) {p : Prop} [Decidable p]
    (hop : operandFault? i s = if p then some (.outOfRangeAddress, 0x1000#16) else none)
    (ht : pcTarget? i s = some (s.pc.toNat + 2)) (hp : p ↔ ¬ (count = 0 ∨ s.I.toNat + (count - 1) ≤ 0xFFF)) :
    withBlock s count (advance 2 s (writes i s)) = answerByRules i s := by
  rw [← blockFits_iff] at hp
  by_cases hfits : s.blockFits count = true
  · rw [withBlock_of_fits hfits]
    exact commit_eq_answer i s (hop.trans (if_neg fun h => hp.mp h hfits)) ht
  · rw [withBlock_of_not_fits hfits]
    exact raise_eq_answer i s (hop.trans (if_pos (hp.mpr hfits)))

/-- Every instruction answers what the rules list for it, in every state. -/
theorem exec_eq_answer (i : Instr) (s : State) : exec i s = answerByRules i s := by
  have hcommit : ∀ t, operandFault? i s = none → pcTarget? i s = some t →
      commit s (writes i s) t = answerByRules i s := fun _ => commit_eq_answer i s
  cases i with
  | ret => exact execRet_eq_answer s
  | call nnn => exact execCall_eq_answer nnn s
  | jp nnn =>
    rw [exec, execJp, nnnAddress_toNat]
    exact hcommit _ rfl rfl
  | jpV0 nnn =>
    rw [exec, execJpV0, nnnAddress_toNat]
    exact hcommit _ rfl rfl
  | skp x => exact skipOnKey_eq_answer (.skp x) s rfl (by rw [beq_true]; rfl) rfl
  | sknp x => exact skipOnKey_eq_answer (.sknp x) s rfl (by rw [beq_false]; rfl) rfl
  | drw x y n => exact withBlock_eq_answer (.drw x y n) s n rfl rfl (by omega)
  | ldB x => exact withBlock_eq_answer (.ldB x) s 3 rfl rfl (by omega)
  | storeRegs x =>
    refine withBlock_eq_answer (.storeRegs x) s (s.regsTo x).length rfl rfl ?_
    rw [regsTo_length]
    omega
  | loadRegs x => exact withBlock_eq_answer (.loadRegs x) s (x.val + 1) rfl rfl (by omega)
  | ldVxK x =>
    rw [answerByRules_of_completes rfl, completed_ldVxK]
    rfl
  | _ => exact hcommit _ rfl rfl

/-- Everything `exec` can do, in full: the first fault the rules list, or completion. -/
theorem exec_answers {i : Instr} {s t : State} (h : exec i s = .next t) :
    (∃ c info, instructionFault? i s = some (c, info) ∧ t = s.enterFault c info) ∨
    (instructionFault? i s = none ∧ t = completed i s) := by
  rw [exec_eq_answer] at h
  cases hf : instructionFault? i s with
  | none =>
    rw [answerByRules_of_completes hf] at h
    cases h
    exact .inr ⟨rfl, rfl⟩
  | some f =>
    rw [answerByRules_of_fault hf] at h
    cases h
    exact .inl ⟨f.1, f.2, rfl, rfl⟩

end Sys2Proof.Machine

/-! ### The invariant (rule R44) -/

namespace Sys2Proof.Machine

/-- A fetch in range reads two bytes of memory (R121). -/
theorem pc_le_of_fetch? {s : State} {op : Word} (h : fetch? s = some op) : s.pc.toNat ≤ 0xFFE := by
  unfold fetch? at h
  split at h
  · cases h
  · omega

/-- A step in Running, in full: the fetch faults, the decoder rejects the word, or the instruction fetched runs. -/
theorem step_running_answers {s : State} (h : s.run = .running) :
    step s = raise s .outOfRangeAddress 0x1000#16 ∨
    (∃ op, decode op = .unknownOpcode op ∧ step s = raise s .unknownOpcode op) ∨
    ∃ i, s.pc.toNat ≤ 0xFFE ∧ s.nextInstr? = some i ∧ step s = exec i s := by
  simp only [step_of_running h, stepRunning, State.nextInstr?, h]
  cases hf : fetch? s with
  | none => exact .inl rfl
  | some op =>
    simp only [runOpcode, Option.bind_some]
    rcases decode_answers op with ⟨i, hd⟩ | hd
    · rw [hd]
      exact .inr (.inr ⟨i, pc_le_of_fetch? hf, rfl, rfl⟩)
    · exact .inr (.inl ⟨op, hd, by rw [hd]⟩)

/-! #### The info of every fault is of its cause's range (rule R265) -/

/-- A target of the pc write that is out of range and fits the record (R264). -/
theorem faultInfoOk_target {t : Nat} (hgt : t > 0xFFF) (hle : t ≤ 0x10FE) :
    faultInfoOk .outOfRangeAddress (BitVec.ofNat 16 t) := by
  simp only [faultInfoOk, BitVec.toNat_ofNat]
  omega

/-- The info of a fault that the operand check raises (R261 to R264, R269). -/
theorem operandFault?_info {i : Instr} {s : State} {c : Cause} {info : Word}
    (h : operandFault? i s = some (c, info)) : faultInfoOk c info := by
  cases i with
  | call nnn =>
    obtain ⟨-, ⟨⟩⟩ := Option.ite_none_right_eq_some.mp h
    simp only [faultInfoOk, BitVec.toNat_ofNat]
    omega
  | ret =>
    obtain ⟨-, ⟨⟩⟩ := Option.ite_none_right_eq_some.mp h
    rfl
  | skp x | sknp x =>
    obtain ⟨hgt, ⟨⟩⟩ := Option.ite_none_right_eq_some.mp h
    simp only [faultInfoOk, BitVec.toNat_ofNat]
    omega
  | drw _ _ _ | ldB _ | storeRegs _ | loadRegs _ =>
    obtain ⟨-, ⟨⟩⟩ := Option.ite_none_right_eq_some.mp h
    exact faultInfoOk_target (t := 0x1000) (by decide) (by decide)
  | _ => cases h

theorem skipDistance_le (cond : Bool) : skipDistance cond ≤ 4 := by cases cond <;> decide

/-- No instruction's target is above the largest address a fault record holds: Bnnn reaches it (R143, R265). -/
theorem pcTarget?_le {i : Instr} {s : State} {t : Nat} (hs : s.Inv) (hpc : s.pc.toNat ≤ 0xFFE)
    (h : pcTarget? i s = some t) : t ≤ 0x10FE := by
  cases i with
  | jp nnn | call nnn =>
    cases h
    omega
  | jpV0 nnn =>
    cases h
    omega
  | ret =>
    cases h
    rw [stack_getD s (by omega)]
    have := hs.slot_le ⟨s.sp.val - 1, by omega⟩
    omega
  | seImm x nn | sneImm x nn | seReg x y | sneReg x y | skp x | sknp x =>
    cases h
    exact Nat.le_trans (Nat.add_le_add hpc (skipDistance_le _)) (by decide)
  | ldVxK x => cases h
  | _ =>
    cases h
    omega

/-- Where an instruction does not fault its operand check passes and its target is in range (R127). -/
theorem instructionFault?_eq_none {i : Instr} {s : State} (h : instructionFault? i s = none) :
    operandFault? i s = none ∧ ∀ t, pcTarget? i s = some t → t ≤ 0xFFF := by
  cases hop : operandFault? i s with
  | some f => rw [instructionFault?_of_operand hop] at h; cases h
  | none =>
    refine ⟨rfl, fun t ht => ?_⟩
    rw [instructionFault?_of_target hop ht] at h
    by_contra hgt
    rw [if_pos (Nat.not_le.mp hgt)] at h
    cases h

/-- The info of an instruction's fault is of its cause's range. -/
theorem instructionFault?_info {i : Instr} {s : State} {c : Cause} {info : Word} (hs : s.Inv) (hpc : s.pc.toNat ≤ 0xFFE)
    (h : instructionFault? i s = some (c, info)) : faultInfoOk c info := by
  cases hop : operandFault? i s with
  | some f =>
    rw [instructionFault?_of_operand hop] at h
    exact operandFault?_info (hop.trans h)
  | none =>
    cases ht : pcTarget? i s with
    | none => simp only [instructionFault?, hop, ht] at h; cases h
    | some t =>
      rw [instructionFault?_of_target hop ht] at h
      obtain ⟨hgt, ⟨⟩⟩ := Option.ite_none_right_eq_some.mp h
      exact faultInfoOk_target hgt (pcTarget?_le hs hpc ht)

/-! #### What an instruction writes keeps the bounds -/

/-- An address in range is in range as the word that holds it. -/
theorem toNat_target_le {t : Nat} (h : t ≤ 0xFFF) : (BitVec.ofNat 16 t).toNat ≤ 0xFFF := (toNat_target h).le.trans h

/-- A block that passes its range check is stored inside memory, so the list stays canonical (R64). -/
theorem writes_memWf {i : Instr} {s : State} (hs : s.memWf = true) (hop : operandFault? i s = none) :
    (writes i s).memWf = true := by
  cases i with
  | ldB x =>
    have hle : ¬ s.I.toNat + 2 > 0xFFF := fun h => by cases (if_pos h).symm.trans hop
    refine memWf_storeBytes hs ?_
    simp only [State.dataAddress, decimalDigits, List.length_cons, List.length_nil]
    omega
  | storeRegs x =>
    have hle : ¬ s.I.toNat + x.val > 0xFFF := fun h => by cases (if_pos h).symm.trans hop
    refine memWf_storeBytes hs ?_
    rw [regsTo_length, State.dataAddress]
    omega
  | ret => simp only [writes]; split <;> exact hs
  | call nnn => simp only [writes]; split <;> exact hs
  | _ => exact hs

/-- No instruction takes I above 0xFFF (R23, R190 to R192). -/
theorem writes_I_le {i : Instr} {s : State} (hs : s.I.toNat ≤ 0xFFF) : (writes i s).I.toNat ≤ 0xFFF := by
  cases i with
  | ldI nnn => exact nnnAddress_le nnn
  | addI x => exact toNat_target_le (by omega)
  | ldF x => exact toNat_target_le (by omega)
  | ret => simp only [writes]; split <;> exact hs
  | call nnn => simp only [writes]; split <;> exact hs
  | _ => exact hs

/-- A call pushes an address it was fetched from; nothing else writes a slot (R28, C14). -/
theorem writes_slot_le {i : Instr} {s : State} (hs : ∀ j, (s.slot j).toNat ≤ 0xFFE) (hpc : s.pc.toNat ≤ 0xFFE)
    (j : Fin 16) : ((writes i s).slot j).toNat ≤ 0xFFE := by
  cases i with
  | call nnn =>
    simp only [writes]
    split
    · rw [slot_push]
      split
      · exact hpc
      · exact hs j
    · exact hs j
  | ret => simp only [writes]; split <;> exact hs j
  | _ => exact hs j

/-! #### Every answer of a step meets the invariant -/

/-- A fault entry with an info of its cause's range keeps the invariant (R265, R266). -/
theorem State.Inv.enterFault {s : State} (hs : s.Inv) {c : Cause} {info : Word} (hinfo : faultInfoOk c info) :
    (s.enterFault c info).Inv where
  mem_wf := hs.mem_wf
  I_le := hs.I_le
  pc_le := hs.pc_le
  slot_le := hs.slot_le
  awaiting_pc _ h := by cases h
  record_pc _ _ _ h := by cases h; rfl
  record_info _ _ _ h := by cases h; exact hinfo

/-- The invariant, where `run` is Running, is the bounds alone. -/
theorem State.Inv.of_running {s : State} (hrun : s.run = .running) (hmem : s.memWf = true) (hI : s.I.toNat ≤ 0xFFF)
    (hpc : s.pc.toNat ≤ 0xFFF) (hslot : ∀ j, (s.slot j).toNat ≤ 0xFFE) : s.Inv where
  mem_wf := hmem
  I_le := hI
  pc_le := hpc
  slot_le := hslot
  awaiting_pc _ h := by rw [hrun] at h; cases h
  record_pc _ _ _ h := by rw [hrun] at h; cases h
  record_info _ _ _ h := by rw [hrun] at h; cases h

/-- The target a completed instruction leaves in pc is in range. -/
theorem completed_pc_le {i : Instr} {s : State} (hpc : s.pc.toNat ≤ 0xFFF) (hf : instructionFault? i s = none) :
    (completed i s).pc.toNat ≤ 0xFFF := by
  refine toNat_target_le ?_
  cases ht : pcTarget? i s with
  | none => exact hpc
  | some t => exact (instructionFault?_eq_none hf).2 t ht

/-- A completed instruction keeps the invariant: Fx0A waits at the pc it was fetched from, every other one runs on. -/
theorem State.Inv.completed {i : Instr} {s : State} (hs : s.Inv) (hrun : s.run = .running) (hpc : s.pc.toNat ≤ 0xFFE)
    (hf : instructionFault? i s = none) : (completed i s).Inv := by
  have hmem := writes_memWf hs.mem_wf (instructionFault?_eq_none hf).1
  have hslot := writes_slot_le (i := i) hs.slot_le hpc
  have hother : runAfter i s = .running → (Machine.completed i s).Inv := fun h =>
    .of_running ((writes_run i s).trans h) hmem (writes_I_le hs.I_le) (completed_pc_le hs.pc_le hf) hslot
  cases i with
  | ldVxK x =>
    rw [completed_ldVxK]
    exact { hs with
      awaiting_pc := fun _ _ => hpc
      record_pc := fun _ _ _ h => by cases h
      record_info := fun _ _ _ h => by cases h }
  | _ => exact hother hrun

/-- An instruction that was fetched keeps the invariant. -/
theorem State.Inv.exec {i : Instr} {s t : State} (hs : s.Inv) (hrun : s.run = .running) (hpc : s.pc.toNat ≤ 0xFFE)
    (h : exec i s = .next t) : t.Inv := by
  rcases exec_answers h with ⟨c, info, hf, rfl⟩ | ⟨hf, rfl⟩
  · exact hs.enterFault (instructionFault?_info hs hpc hf)
  · exact hs.completed hrun hpc hf

/-- The key-wait poll keeps the invariant: a waiting pc is at most 0xFFE, so the fault's info is 0x1000 (R231, R265). -/
theorem State.Inv.pollKey {x : Reg} {s t : State} (hs : s.Inv) (hpc : s.pc.toNat ≤ 0xFFE) (h : pollKey x s = .next t) :
    t.Inv := by
  cases hk : lowestKey? s.key with
  | none =>
    rw [pollKey_of_none hk] at h
    cases h
    exact hs
  | some k =>
    rw [pollKey_of_some hk] at h
    rcases advance_cases h with ⟨hle, rfl⟩ | ⟨hgt, rfl⟩
    · exact .of_running rfl hs.mem_wf hs.I_le (toNat_target_le hle) hs.slot_le
    · exact hs.enterFault (faultInfoOk_target hgt (by omega))

/-- A step keeps the invariant (R44). -/
theorem State.Inv.step {s t : State} (hs : s.Inv) (h : step s = .next t) : t.Inv := by
  cases hrun : s.run with
  | running =>
    rcases step_running_answers hrun with hstep | ⟨op, hop, hstep⟩ | ⟨i, hpc, -, hstep⟩ <;> rw [hstep] at h
    · cases h
      exact hs.enterFault (faultInfoOk_target (t := 0x1000) (by decide) (by decide))
    · cases h
      exact hs.enterFault hop
    · exact hs.exec hrun hpc h
  | awaitingKey x =>
    rw [step_of_awaiting hrun] at h
    exact hs.pollKey (hs.awaiting_pc x hrun) h
  | faulted c p info =>
    rw [step_of_faulted hrun] at h
    cases h
    exact hs

/-! #### Every operation keeps the invariant -/

/-- The state after reset, whatever the font, meets the invariant (R42). -/
theorem resetWith_inv (font : Font) : (State.resetWith font).Inv :=
  .of_running rfl (resetWith_memWf font) (Nat.zero_le _) (by decide : (0x200#16).toNat ≤ 0xFFF)
    fun j => by simp [slot_eq, State.resetWith]

/-- A load keeps the invariant: it fits above 0x200, or it faults, or it does nothing (R291, R292). -/
theorem State.Inv.loadGame {s : State} (hs : s.Inv) (bytes : List Byte) : (s.loadGame bytes).Inv := by
  rcases Nat.lt_or_ge 3584 bytes.length with hlen | hlen
  · rw [loadGame_of_gt hlen]
    split
    · exact hs
    · exact hs.enterFault (faultInfoOk_target (t := 0x1000) (by decide) (by decide))
  · rw [loadGame_of_le hlen]
    exact { hs with mem_wf := memWf_storeBytes hs.mem_wf (by omega) }

theorem State.Inv.tick {s : State} (hs : s.Inv) : s.tick.Inv := by
  unfold State.tick
  split
  · exact hs
  · exact { hs with }

/-- Every operation keeps the invariant (R44). -/
theorem State.Inv.operate {op : Operation} {s t : State} {es : List Event} (hs : s.Inv)
    (h : operate op s = .next (t, es)) : t.Inv := by
  cases op with
  | step => exact hs.step (operate_step_iff.mp h).1
  | reset => cases h; exact { resetWith_inv s.font with }
  | loadGame bytes => cases h; exact hs.loadGame bytes
  | tick => cases h; exact hs.tick
  | setKey k pressed => cases h; exact { hs with }
  | snapshot => cases h; exact { hs with }

/-- A run of operations is its first operation and then the rest (R70). -/
theorem operateAll_cons {op : Operation} {ops : List Operation} {s u : State} {es : List Event}
    (h : operateAll (op :: ops) s = .next (u, es)) :
    ∃ t es₁ es₂, operate op s = .next (t, es₁) ∧ operateAll ops t = .next (u, es₂) ∧ es = es₁ ++ es₂ := by
  obtain ⟨t, es₁, ht⟩ := operate_total op s
  simp only [operateAll, ht] at h
  cases hrest : operateAll ops t with
  | next p =>
    rw [hrest] at h
    cases h
    exact ⟨t, es₁, p.2, ht, hrest, rfl⟩
  | fault r => cases r
  | refused r => rw [hrest] at h; cases h

/-- What every operation keeps every run of operations keeps (R70). -/
theorem operateAll_keeps {p : State → Prop}
    (hop : ∀ {op s t es}, p s → operate op s = .next (t, es) → p t) :
    ∀ {ops s t es}, p s → operateAll ops s = .next (t, es) → p t
  | [], _, _, _, hs, h => by cases h; exact hs
  | _ :: _, _, _, _, hs, h => by
    obtain ⟨_, _, _, ht, hrest, -⟩ := operateAll_cons h
    exact operateAll_keeps hop (hop hs ht) hrest

end Sys2Proof.Machine

/-! ### Canonical memory (rules R35, R60) -/

namespace Sys2Proof.Machine

section
variable {font : Font} {lo a : Nat} {b : Byte} {rest m' : Memory}

theorem wfFrom_cons_iff : Memory.wfFrom font lo ((a, b) :: rest) = true ↔
    lo ≤ a ∧ a ≤ 0xFFF ∧ b ≠ Memory.unlisted font a ∧ Memory.wfFrom font (a + 1) rest = true := by
  simp only [Memory.wfFrom, Bool.and_eq_true, decide_eq_true_eq, and_assoc]

theorem read_cons_self : Memory.read font ((a, b) :: rest) a = b := if_pos rfl

theorem read_cons_ne {c : Nat} (h : c ≠ a) : Memory.read font ((a, b) :: rest) c = Memory.read font rest c := if_neg h

/-- A canonical list that starts above the first address of another reads differently there. -/
theorem read_head_ne (h : Memory.wfFrom font lo ((a, b) :: rest) = true) (h' : Memory.wfFrom font (a + 1) m' = true) :
    Memory.read font ((a, b) :: rest) a ≠ Memory.read font m' a := by
  obtain ⟨-, -, hne, -⟩ := wfFrom_cons_iff.mp h
  rwa [read_cons_self, read_of_lt_wfFrom (Nat.lt_succ_self a) h']

/-- A canonical list is canonical from any address up to its first. -/
theorem wfFrom_of_le_head {lo' : Nat} (h : Memory.wfFrom font lo ((a, b) :: rest) = true) (hle : lo' ≤ a) :
    Memory.wfFrom font lo' ((a, b) :: rest) = true :=
  wfFrom_cons_iff.mpr ⟨hle, (wfFrom_cons_iff.mp h).2⟩

/-- Canonical lists that read the same at every address of memory are equal: the lower of their first addresses is
the first of both. -/
theorem eq_of_read_eq : ∀ {m m' : Memory} {lo : Nat}, Memory.wfFrom font lo m = true → Memory.wfFrom font lo m' = true →
    (∀ c, c ≤ 0xFFF → Memory.read font m c = Memory.read font m' c) → m = m'
  | [], [], _, _, _, _ => rfl
  | (a, b) :: rest, [], _, h, _, hread => absurd (hread a (wfFrom_cons_iff.mp h).2.1) (read_head_ne h rfl)
  | [], (a', b') :: rest', _, _, h', hread =>
    absurd (hread a' (wfFrom_cons_iff.mp h').2.1).symm (read_head_ne h' rfl)
  | (a, b) :: rest, (a', b') :: rest', _, h, h', hread => by
    obtain ⟨-, ha, -, hrest⟩ := wfFrom_cons_iff.mp h
    obtain ⟨-, ha', -, hrest'⟩ := wfFrom_cons_iff.mp h'
    rcases Nat.lt_trichotomy a a' with hlt | rfl | hgt
    · exact absurd (hread a ha) (read_head_ne h (wfFrom_of_le_head h' hlt))
    · have hb : b = b' := by simpa only [read_cons_self] using hread a ha
      have htail : ∀ c, c ≤ 0xFFF → Memory.read font rest c = Memory.read font rest' c := fun c hc => by
        by_cases hca : c = a
        · subst hca
          rw [read_of_lt_wfFrom (Nat.lt_succ_self c) hrest, read_of_lt_wfFrom (Nat.lt_succ_self c) hrest']
        · simpa only [read_cons_ne hca] using hread c hc
      rw [hb, eq_of_read_eq hrest hrest' htail]
    · exact absurd (hread a' ha').symm (read_head_ne h' (wfFrom_of_le_head h hgt))

end

/-! ### Frames: what an instruction and a step leave unchanged (rules R20, R128) -/

section
variable {α : Sort*} (item : State → α) {s t : State}

/-- An item that the instruction does not write is unchanged, whether it completes or faults. -/
theorem exec_keeps {i : Instr} (h : exec i s = .next t) (hw : item (writes i s) = item s)
    (hpc : ∀ s w, item (s.setPc w) = item s := by intros; rfl)
    (hrun : ∀ s r, item (s.setRun r) = item s := by intros; rfl) : item t = item s := by
  rcases exec_cases h with ⟨c, info, rfl⟩ | ⟨w, rfl⟩
  · exact hrun s _
  · exact (hpc _ w).trans hw

/-- An item that no instruction and no poll writes is unchanged by a step. -/
theorem step_keeps (h : step s = .next t) (hw : ∀ i, item (writes i s) = item s)
    (hV : ∀ s x b, item (s.setV x b) = item s := by intros; rfl)
    (hpc : ∀ s w, item (s.setPc w) = item s := by intros; rfl)
    (hrun : ∀ s r, item (s.setRun r) = item s := by intros; rfl) : item t = item s := by
  rcases step_cases h with ⟨c, info, rfl⟩ | ⟨-, rfl⟩ | ⟨i, -, hi⟩ | ⟨x, k, -, -, w, rfl⟩
  · exact hrun s _
  · rfl
  · exact exec_keeps item hi (hw i) hpc hrun
  · exact (hpc _ w).trans ((hrun _ _).trans (hV s x _))

end

section
variable {i : Instr} {s : State}

/-- A register that is no destination, nor VF under a flag writer, keeps its value (R21, R22). -/
theorem writes_getV {r : Reg} (hdest : i.hasDestination r = false) (hflag : r = Reg.F → i.writesFlag = false) :
    (writes i s).getV r = s.getV r := by
  cases i with
  | ldImm x nn | addImm x nn | rnd x nn | ldVxDt x => exact getV_setV_ne s (ne_of_beq_false hdest) _
  | ldReg x y | orReg x y | andReg x y | xorReg x y => exact getV_setV_ne s (ne_of_beq_false hdest) _
  | addReg x y | sub x y | shr x y | subn x y | shl x y =>
    have hF : r ≠ Reg.F := fun h => Bool.noConfusion (hflag h)
    exact (getV_setV_ne _ (ne_of_beq_false hdest) _).trans (getV_setV_ne s hF _)
  | drw x y n => exact getV_setV_ne s (fun h => Bool.noConfusion (hflag h)) _
  | loadRegs x => exact (getV_loadRegsFrom s x r _).trans (if_neg (of_decide_eq_false hdest))
  | ret => simp only [writes]; split <;> rfl
  | call nnn => simp only [writes]; split <;> rfl
  | _ => rfl

/-- Annn, Fx1E and Fx29 alone write I (R23). -/
theorem writes_I (hld : ∀ nnn, i ≠ .ldI nnn) (hadd : ∀ x, i ≠ .addI x) (hfont : ∀ x, i ≠ .ldF x) :
    (writes i s).I = s.I := by
  cases i with
  | ldI nnn => exact absurd rfl (hld nnn)
  | addI x => exact absurd rfl (hadd x)
  | ldF x => exact absurd rfl (hfont x)
  | ret => simp only [writes]; split <;> rfl
  | call nnn => simp only [writes]; split <;> rfl
  | _ => rfl

/-- 2nnn alone writes the stack (R28). -/
theorem writes_stack (hcall : ∀ nnn, i ≠ .call nnn) : (writes i s).stack = s.stack := by
  cases i with
  | call nnn => exact absurd rfl (hcall nnn)
  | ret => simp only [writes]; split <;> rfl
  | _ => rfl

/-- No instruction writes a slot other than the one at sp (R142). -/
theorem writes_slot {j : Fin 16} (hj : j.val ≠ s.sp.val) : (writes i s).slot j = s.slot j := by
  cases i with
  | call nnn =>
    simp only [writes]
    split
    · rw [slot_push, if_neg hj]
    · rfl
  | _ => exact congrArg (fun stack : Vector Word 16 => stack.get j) (writes_stack fun _ => Instr.noConfusion)

/-- 2nnn and 00EE alone write sp (R29). -/
theorem writes_sp (hcall : ∀ nnn, i ≠ .call nnn) (hret : i ≠ .ret) : (writes i s).sp = s.sp := by
  cases i with
  | call nnn => exact absurd rfl (hcall nnn)
  | ret => exact absurd rfl hret
  | _ => rfl

/-- Fx15 alone writes DT (R30). -/
theorem writes_DT (hld : ∀ x, i ≠ .ldDtVx x) : (writes i s).DT = s.DT := by
  cases i with
  | ldDtVx x => exact absurd rfl (hld x)
  | ret => simp only [writes]; split <;> rfl
  | call nnn => simp only [writes]; split <;> rfl
  | _ => rfl

/-- Fx18 alone writes ST (R31). -/
theorem writes_ST (hld : ∀ x, i ≠ .ldStVx x) : (writes i s).ST = s.ST := by
  cases i with
  | ldStVx x => exact absurd rfl (hld x)
  | ret => simp only [writes]; split <;> rfl
  | call nnn => simp only [writes]; split <;> rfl
  | _ => rfl

/-- 00E0 and Dxyn alone write the framebuffer and `frame_dirty` (R32, R38). -/
theorem writes_screen (hcls : i ≠ .cls) (hdrw : ∀ x y n, i ≠ .drw x y n) :
    (writes i s).fb = s.fb ∧ (writes i s).frameDirty = s.frameDirty := by
  cases i with
  | cls => exact absurd rfl hcls
  | drw x y n => exact absurd rfl (hdrw x y n)
  | ret => simp only [writes]; split <;> exact ⟨rfl, rfl⟩
  | call nnn => simp only [writes]; split <;> exact ⟨rfl, rfl⟩
  | _ => exact ⟨rfl, rfl⟩

/-- No instruction writes the key latch (R33). -/
theorem writes_key (i : Instr) (s : State) : (writes i s).key = s.key := by
  cases i with
  | ret => simp only [writes]; split <;> rfl
  | call nnn => simp only [writes]; split <;> rfl
  | _ => rfl

/-- Cxnn alone draws a random byte (R171). -/
theorem writes_draws (hrnd : ∀ x nn, i ≠ .rnd x nn) : (writes i s).draws = s.draws := by
  cases i with
  | rnd x nn => exact absurd rfl (hrnd x nn)
  | ret => simp only [writes]; split <;> rfl
  | call nnn => simp only [writes]; split <;> rfl
  | _ => rfl

/-- Fx0A alone enters the wait; a fault is the other change of `run` (R36, R123). -/
theorem exec_run {t : State} (hwait : ∀ x, i ≠ .ldVxK x) (h : exec i s = .next t) :
    t.run = s.run ∨ ∃ c info, t.run = .faulted c s.pc info := by
  rcases exec_cases h with ⟨c, info, rfl⟩ | ⟨w, rfl⟩
  · exact .inr ⟨c, info, rfl⟩
  · refine .inl ((writes_run i s).trans ?_)
    cases i with
    | ldVxK x => exact absurd rfl (hwait x)
    | _ => rfl

end

/-! ### The key latch (rules R33, R225, R226) -/

/-- A step does not write the key latch. -/
theorem step_key {s t : State} (h : step s = .next t) : t.key = s.key :=
  step_keeps State.key h fun i => writes_key i s

theorem tick_key (s : State) : s.tick.key = s.key := by
  unfold State.tick
  split <;> rfl

theorem loadGame_key (s : State) (bytes : List Byte) : (s.loadGame bytes).key = s.key := by
  unfold State.loadGame
  split_ifs <;> rfl

/-- No operation but `setKey()` and `reset()` writes the key latch (C2). -/
theorem operate_key {op : Operation} {s t : State} {es : List Event} (h : operate op s = .next (t, es))
    (hset : ∀ k b, op ≠ .setKey k b) (hreset : op ≠ .reset) : t.key = s.key := by
  cases op with
  | step => exact step_key (operate_step_iff.mp h).1
  | loadGame bytes => cases h; exact loadGame_key s bytes
  | tick => cases h; exact tick_key s
  | snapshot => cases h; rfl
  | setKey k pressed => exact absurd rfl (hset k pressed)
  | reset => exact absurd rfl hreset

/-! ### Items that a step does not read: steps from two states that are related -/

/-- Where `r` is a next state, `r'` is a next state related to it. -/
def AnswersRelated (R : State → State → Prop) (r r' : Result) : Prop := ∀ t, r = .next t → ∃ w, r' = .next w ∧ R t w

theorem AnswersRelated.next {R : State → State → Prop} {t w : State} (h : R t w) :
    AnswersRelated R (.next t) (.next w) := by
  rintro _ ⟨⟩
  exact ⟨w, rfl, h⟩

/-- A relation between a state and one that differs from it in items a step does not read: it bears on neither the
instruction fetched nor `run`, pc and the key latch, and a write of `run` or pc keeps it. -/
structure Unread (R : State → State → Prop) : Prop where
  same : ∀ {s u}, R s u → u.run = s.run ∧ u.pc = s.pc ∧ u.key = s.key ∧ fetch? u = fetch? s
  setRun : ∀ {s u}, R s u → ∀ r, R (s.setRun r) (u.setRun r)
  setPc : ∀ {s u}, R s u → ∀ w, R (s.setPc w) (u.setPc w)
  setV : ∀ {s u}, R s u → ∀ x b, R (s.setV x b) (u.setV x b)

namespace Unread
variable {R : State → State → Prop} (hR : Unread R) {s u : State}
include hR

theorem raise (h : R s u) (c : Cause) (info : Word) : AnswersRelated R (raise s c info) (raise u c info) := by
  obtain ⟨-, hpc, -, -⟩ := hR.same h
  refine .next ?_
  rw [State.enterFault, State.enterFault, hpc]
  exact hR.setRun h _

theorem advance {s' u' : State} (h : R s u) (h' : R s' u') (k : Nat) :
    AnswersRelated R (advance k s s') (advance k u u') := by
  obtain ⟨-, hpc, -, -⟩ := hR.same h
  rw [Machine.advance, Machine.advance, hpc]
  unfold commit
  split
  · exact hR.raise h _ _
  · exact .next (hR.setPc h' _)

/-- An instruction whose fault, target and writes do not read the items answers related states. -/
theorem exec {i : Instr} (h : R s u) (hfault : instructionFault? i u = instructionFault? i s)
    (htarget : pcTarget? i u = pcTarget? i s) (hwrites : R (writes i s) (writes i u)) :
    AnswersRelated R (exec i s) (exec i u) := by
  obtain ⟨-, hpc, -, -⟩ := hR.same h
  rw [exec_eq_answer, exec_eq_answer, answerByRules, answerByRules, hfault]
  cases instructionFault? i s with
  | some f => exact hR.raise h f.1 f.2
  | none =>
    refine .next ?_
    rw [completed, completed, htarget, hpc]
    exact hR.setPc hwrites _

theorem pollKey (h : R s u) (x : Reg) : AnswersRelated R (pollKey x s) (pollKey x u) := by
  obtain ⟨-, -, hkey, -⟩ := hR.same h
  cases hk : lowestKey? s.key with
  | none =>
    rw [pollKey_of_none hk, pollKey_of_none (hkey ▸ hk)]
    exact .next h
  | some k =>
    rw [pollKey_of_some hk, pollKey_of_some (hkey ▸ hk)]
    exact hR.advance h (hR.setRun (hR.setV h _ _) _) 2

theorem nextInstr?_eq (h : R s u) : u.nextInstr? = s.nextInstr? := by
  obtain ⟨hrun, -, -, hfetch⟩ := hR.same h
  simp only [State.nextInstr?, hrun, hfetch]

/-- A step answers related states where the instruction it executes does. -/
theorem step (h : R s u) (hexec : ∀ i, s.nextInstr? = some i → AnswersRelated R (Machine.exec i s) (Machine.exec i u)) :
    AnswersRelated R (step s) (step u) := by
  obtain ⟨hrun, -, -, hfetch⟩ := hR.same h
  cases hr : s.run with
  | running =>
    simp only [step_of_running hr, step_of_running (hrun.trans hr), stepRunning, hfetch]
    cases hf : fetch? s with
    | none => exact hR.raise h _ _
    | some op =>
      rcases decode_answers op with ⟨i, hd⟩ | hd
      · simp only [runOpcode, hd]
        exact hexec i (by simp only [State.nextInstr?, hr, hf, Option.bind_some, hd, Decoded.instr?])
      · simp only [runOpcode, hd]
        exact hR.raise h _ _
  | awaitingKey x =>
    rw [step_of_awaiting hr, step_of_awaiting (hrun.trans hr)]
    exact hR.pollKey h x
  | faulted c p info =>
    rw [step_of_faulted hr, step_of_faulted (hrun.trans hr)]
    exact .next h

end Unread

/-- `u` differs from `s` at most in ST and `frame_dirty`. -/
def SameButSoundAndDirty (s u : State) : Prop := ∃ b d, u = { s with ST := b, frameDirty := d }

/-- ST and `frame_dirty` are no part of a fetch, and no write of another item touches them (R31, R38). -/
theorem unread_soundAndDirty : Unread SameButSoundAndDirty where
  same := by rintro s _ ⟨b, d, rfl⟩; exact ⟨rfl, rfl, rfl, rfl⟩
  setRun := by rintro s _ ⟨b, d, rfl⟩ r; exact ⟨b, d, rfl⟩
  setPc := by rintro s _ ⟨b, d, rfl⟩ w; exact ⟨b, d, rfl⟩
  setV := by rintro s _ ⟨b, d, rfl⟩ x c; exact ⟨b, d, rfl⟩

/-- No instruction's writes read ST or `frame_dirty`: Fx18 sets ST, 00E0 and Dxyn set `frame_dirty`. -/
theorem SameButSoundAndDirty.writes {s u : State} (h : SameButSoundAndDirty s u) (i : Instr) :
    SameButSoundAndDirty (writes i s) (writes i u) := by
  obtain ⟨b, d, rfl⟩ := h
  cases i with
  | ldStVx x => exact ⟨s.getV x, d, rfl⟩
  | cls | drw _ _ _ => exact ⟨b, true, rfl⟩
  | ret => refine ⟨b, d, ?_⟩; simp only [Machine.writes]; split <;> rfl
  | call nnn => refine ⟨b, d, ?_⟩; simp only [Machine.writes]; split <;> rfl
  | _ => exact ⟨b, d, rfl⟩

/-- No instruction reads ST or `frame_dirty` (R31, R38). -/
theorem SameButSoundAndDirty.exec {s u : State} (h : SameButSoundAndDirty s u) (i : Instr) :
    AnswersRelated SameButSoundAndDirty (exec i s) (exec i u) := by
  have hwrites := h.writes i
  obtain ⟨b, d, rfl⟩ := h
  exact unread_soundAndDirty.exec ⟨b, d, rfl⟩ rfl rfl hwrites

end Sys2Proof.Machine

section
/-! ### The statements of 10_state.md -/

open Sys2Proof.Machine

/-- Settles O49: by `State.Inv.step`, from what an instruction's fault, target and writes can be. -/
theorem stepKeepsTheInvariant : Obligations.StepKeepsTheInvariant := fun _ _ hs h => hs.step h

/-- Settles O50: by `State.Inv.operate`. -/
theorem everyOperationKeepsTheInvariant : Obligations.EveryOperationKeepsTheInvariant := fun _ _ _ _ hs h => hs.operate h

/-- Settles O31: by induction on the two lists, `eq_of_read_eq`. -/
theorem equalMemoryContentsAreEqualData : Obligations.EqualMemoryContentsAreEqualData :=
  fun _ _ _ h h' hread => eq_of_read_eq h h' hread

/-- Settles O37: by `operate_key` for the operations that write no flag, and `key_setKey` for the one that writes one. -/
theorem onlySetKeyAndResetWriteTheLatch : Obligations.OnlySetKeyAndResetWriteTheLatch := by
  refine fun op s t es h => ⟨operate_key h, ?_, ?_⟩
  · rintro k b rfl
    cases h
    exact ⟨rfl, rfl, fun j => key_setKey s k j b⟩
  · rintro rfl j
    cases h
    exact Vector.getElem_replicate j.isLt

/-- Settles O42: ST and `frame_dirty` are items that a step does not read. -/
theorem stepNeverReadsSoundTimerOrDirtyFlag : Obligations.StepNeverReadsSoundTimerOrDirtyFlag := by
  intro s t b d h
  have hsame : SameButSoundAndDirty s { s with ST := b, frameDirty := d } := ⟨b, d, rfl⟩
  obtain ⟨_, hstep, b', d', rfl⟩ := unread_soundAndDirty.step hsame (fun i _ => hsame.exec i) t h
  exact ⟨b', d', hstep⟩

/-- Settles O45: by `writes_getV`; a fault writes no register. -/
theorem registerFrameOfEveryInstruction : Obligations.RegisterFrameOfEveryInstruction :=
  fun _ _ _ r h hdest hflag => exec_keeps (fun s => s.getV r) h (writes_getV hdest hflag)

/-- Settles O47: item by item, what `writes` leaves is what `exec` leaves. -/
theorem specialStateFrameOfEveryInstruction : Obligations.SpecialStateFrameOfEveryInstruction := by
  intro i s t h
  refine ⟨fun hld hadd hfont => ?_, fun hcall => ?_, fun j hj => ?_, fun hcall hret => ?_, fun hld => ?_, fun hld => ?_,
    fun hcls hdrw => ⟨?_, ?_⟩, ?_, fun hrnd => ?_, fun hwait => exec_run hwait h⟩
  · exact exec_keeps State.I h (writes_I hld hadd hfont)
  · exact exec_keeps State.stack h (writes_stack hcall)
  · exact exec_keeps (fun s => s.slot j) h (writes_slot hj)
  · exact exec_keeps State.sp h (writes_sp hcall hret)
  · exact exec_keeps State.DT h (writes_DT hld)
  · exact exec_keeps State.ST h (writes_ST hld)
  · exact exec_keeps State.fb h (writes_screen hcls hdrw).1
  · exact exec_keeps State.frameDirty h (writes_screen hcls hdrw).2
  · exact exec_keeps State.key h (writes_key i s)
  · exact exec_keeps State.draws h (writes_draws hrnd)

/-- Settles O51: every operation keeps the invariant and the state after reset has it. -/
theorem everyReachableStateMeetsTheInvariant : Obligations.EveryReachableStateMeetsTheInvariant := by
  intro ops s t es hs h
  have hinv : s.Inv := by
    rcases hs with rfl | ⟨font, rfl⟩ | hs
    · exact resetWith_inv _
    · exact resetWith_inv font
    · exact hs
  exact operateAll_keeps (fun hs h => State.Inv.operate hs h) hinv h

/-- Settles O48: by `resetWith_inv`, the default font among all. -/
theorem resetMeetsTheInvariant : Obligations.ResetMeetsTheInvariant := ⟨resetWith_inv _, resetWith_inv⟩

/-- Settles O52: the answer is `State.leaveByReset`, whose memory lists nothing and so reads as FONT and zeros. -/
theorem resetLeavesTheResetValues : Obligations.ResetLeavesTheResetValues := by
  refine fun s => ⟨s.leaveByReset, rfl, fun a h => resetByte_of_lt s.font h, fun a h _ => resetByte_of_ge s.font h,
    fun r => Vector.getElem_replicate r.isLt, rfl, rfl, rfl, fun j => Vector.getElem_replicate j.isLt, rfl, rfl,
    pixel_blank, fun k => Vector.getElem_replicate k.isLt, rfl, rfl⟩

end

/-! ### The fetch, and the step that executes what it fetched (rules R62, R121, R122) -/

namespace Sys2Proof.Machine

/-- A big-endian word as a number (R62). -/
theorem bigEndian_toNat (hi lo : Byte) : (bigEndian hi lo).toNat = hi.toNat * 256 + lo.toNat := by
  rw [BitVec.toNat_append, ← Nat.shiftLeft_add_eq_or_of_lt lo.isLt, Nat.shiftLeft_eq]

theorem memWord_toNat (s : State) (a : Nat) :
    (s.memWord a).toNat = (s.memByte a).toNat * 256 + (s.memByte (a + 1)).toNat := bigEndian_toNat _ _

/-- A block write inside the address space with at least two bytes: the word at its start (R62, R67). -/
theorem memWord_storeBytes {s : State} {a : Nat} {bs : List Byte} (hs : s.memWf = true) (hlen : a + bs.length ≤ 0x1000)
    (h2 : 1 < bs.length) : (s.storeBytes a bs).memWord a = bigEndian bs[0] bs[1] := by
  have h0 : (s.storeBytes a bs).memByte a = bs[0] := by
    rw [memByte_storeBytes a hs hlen, dif_pos ⟨le_refl a, by omega⟩]
    simp only [Nat.sub_self]
  have h1 : (s.storeBytes a bs).memByte (a + 1) = bs[1] := by
    rw [memByte_storeBytes (a + 1) hs hlen, dif_pos ⟨Nat.le_succ a, by omega⟩]
    simp only [Nat.add_sub_cancel_left]
  rw [State.memWord, h0, h1]

variable {s : State}

theorem fetch?_of_gt (h : s.pc.toNat + 1 > 0xFFF) : fetch? s = none := if_pos h

theorem fetch?_of_le (h : s.pc.toNat + 1 ≤ 0xFFF) : fetch? s = some (s.memWord s.pc.toNat) := if_neg (Nat.not_lt.mpr h)

/-- A fetch out of range faults (R121). -/
theorem step_of_fetch_none (hr : s.run = .running) (hf : fetch? s = none) :
    step s = raise s .outOfRangeAddress 0x1000#16 := by
  simp only [step_of_running hr, stepRunning, hf]

/-- A fetched word that is an instruction is executed (R122). -/
theorem step_of_decode {op : Word} {i : Instr} (hr : s.run = .running) (hf : fetch? s = some op)
    (hd : decode op = .instr i) : step s = exec i s := by
  simp only [step_of_running hr, stepRunning, hf, runOpcode, hd]

/-- A fetched word that is no instruction faults with the word (R122). -/
theorem step_of_decode_unknown {op : Word} (hr : s.run = .running) (hf : fetch? s = some op)
    (hd : decode op = .unknownOpcode op) : step s = raise s .unknownOpcode op := by
  simp only [step_of_running hr, stepRunning, hf, runOpcode, hd]

theorem nextInstr?_of_decode {op : Word} {i : Instr} (hr : s.run = .running) (hf : fetch? s = some op)
    (hd : decode op = .instr i) : s.nextInstr? = some i := by
  simp only [State.nextInstr?, hr, hf, Option.bind_some, hd, Decoded.instr?]

/-- Only an engine in Running has a next instruction (R120). -/
theorem run_of_nextInstr? {i : Instr} (h : s.nextInstr? = some i) : s.run = .running := by
  cases hr : s.run with
  | running => rfl
  | awaitingKey x => simp only [State.nextInstr?, hr] at h; cases h
  | faulted c p info => simp only [State.nextInstr?, hr] at h; cases h

theorem step_of_nextInstr? {i : Instr} (h : s.nextInstr? = some i) : step s = exec i s := by
  rcases step_running_cases (run_of_nextInstr? h) with ⟨j, hj, hstep⟩ | ⟨hnone, -⟩
  · cases h.symm.trans hj
    exact hstep
  · cases h.symm.trans hnone

/-! ### What is stored in memory (rules R63, R73, R75, R194) -/

/-- Fx55 whose block and pc stay in range completes: V0..Vx are stored at I on (R194). -/
theorem execStoreRegs_of_fits {x : Reg} (hI : s.I.toNat + x.val ≤ 0xFFF) (hpc : s.pc.toNat + 2 ≤ 0xFFF) :
    exec (.storeRegs x) s =
      .next ((s.storeBytes s.I.toNat (s.regsTo x)).setPc (BitVec.ofNat 16 (s.pc.toNat + 2))) := by
  have hfits : s.blockFits (s.regsTo x).length = true := by
    rw [blockFits_iff, regsTo_length]
    exact .inr hI
  rw [exec, execStoreRegs, storeBlock, withBlock_of_fits hfits, advance_of_le _ _ _ hpc]
  rfl

/-- Fx55 with x >= 1 stores the word that V0 and V1 spell at I (R62, R194). -/
theorem memWord_storeRegs {x : Reg} {a : Nat} (hs : s.memWf = true) (hx : 1 ≤ x.val) (ha : a + x.val ≤ 0xFFF) :
    (s.storeBytes a (s.regsTo x)).memWord a = bigEndian (s.getV 0) (s.getV 1) := by
  have hlen : (s.regsTo x).length = x.val + 1 := regsTo_length s x
  rw [memWord_storeBytes hs (by omega) (by omega), regsTo_getElem, regsTo_getElem]
  rfl

/-- With pc at I, the fetch sees the word that Fx55 stored there (R39, R73). -/
theorem fetch?_storeRegs_at_pc {x : Reg} (hs : s.memWf = true) (hx : 1 ≤ x.val) (hI : s.I.toNat + x.val ≤ 0xFFF) :
    fetch? ((s.storeBytes s.I.toNat (s.regsTo x)).setPc s.I) = some (bigEndian (s.getV 0) (s.getV 1)) := by
  have hpc : s.I.toNat + 1 ≤ 0xFFF := by omega
  rw [fetch?_of_le hpc, ← memWord_storeRegs hs hx hI]
  rfl

/-- What an instruction writes leaves every byte outside its stored block (R63, R75). -/
theorem writes_memByte {i : Instr} {a : Nat} (h : a < s.dataAddress 0 ∨ s.dataAddress 0 + i.storedBytes ≤ a) :
    (writes i s).memByte a = s.memByte a := by
  cases i with
  | ldB x => exact memByte_storeBytes_other s h
  | storeRegs x =>
    refine memByte_storeBytes_other s ?_
    rw [regsTo_length]
    exact h
  | ret => simp only [writes]; split <;> rfl
  | call nnn => simp only [writes]; split <;> rfl
  | _ => rfl

end Sys2Proof.Machine

section
/-! ### The statements of 20_memory.md -/

open Sys2Proof Sys2Proof.Machine

/-- Settles O30: Fx55 completes with pc at I, and there the next fetch sees the stored word, `fetch?_storeRegs_at_pc`. -/
theorem nextFetchSeesTheStore : Obligations.NextFetchSeesTheStore := by
  intro s t x i hwf hnext hx hI hblock hpc hstep hdecode
  have hexec := execStoreRegs_of_fits hblock (by omega : s.pc.toNat + 2 ≤ 0xFFF)
  rw [step_of_nextInstr? hnext, hexec, ← hI, BitVec.ofNat_toNat, BitVec.setWidth_eq] at hstep
  cases hstep
  have hrun : s.run = .running := run_of_nextInstr? hnext
  have hfetch := fetch?_storeRegs_at_pc hwf hx hblock
  exact ⟨nextInstr?_of_decode hrun hfetch hdecode, step_of_decode hrun hfetch hdecode⟩

/-- Settles O46: by `writes_memByte`; a fault writes no byte. -/
theorem memoryFrameOfEveryInstruction : Obligations.MemoryFrameOfEveryInstruction := by
  rintro i s t _ h rfl a ha
  exact exec_keeps (fun s => s.memByte a) h (writes_memByte ha)

/-- Settles O6: the number of the word fixes it as the one fetched, and the decoder has two answers. -/
theorem stepFetchesDecodesAndExecutes : Obligations.StepFetchesDecodesAndExecutes := by
  refine fun s hr => ⟨fun hgt => step_of_fetch_none hr (fetch?_of_gt hgt), fun hle op hop => ?_⟩
  have hword : s.memWord s.pc.toNat = op := BitVec.eq_of_toNat_eq ((memWord_toNat s _).trans hop.symm)
  have hf : fetch? s = some op := hword ▸ fetch?_of_le hle
  refine ⟨fun i hd => step_of_decode hr hf hd, fun hno => ?_⟩
  rcases decode_answers op with ⟨i, hd⟩ | hd
  · exact absurd hd (hno i)
  · exact step_of_decode_unknown hr hf hd

end

/-! ### The decoder and the encoder, each the inverse of the other (rules R91, R93, R110, R113) -/

namespace Sys2Proof

section
variable {op : Word} {f : BitVec 4}

/-! #### A word is put together from its own fields -/

theorem formatA_eq_of_toNat {nnn : Addr12} (hnnn : nnn.toNat = op.toNat % 4096) (hf : op.toNat / 4096 = f.toNat) :
    formatA f nnn = op :=
  BitVec.eq_of_toNat_eq (by rw [formatA_toNat]; omega)

theorem formatI_eq_of_toNat {x : Reg} {nn : Byte} (hx : x.val = op.toNat / 256 % 16) (hnn : op.toNat % 256 = nn.toNat)
    (hf : op.toNat / 4096 = f.toNat) : formatI f x nn = op :=
  BitVec.eq_of_toNat_eq (by rw [formatI_toNat]; omega)

theorem formatR_eq_of_toNat {x y : Reg} {fn : BitVec 4} (hx : x.val = op.toNat / 256 % 16)
    (hy : y.val = op.toNat / 16 % 16) (hf : op.toNat / 4096 = f.toNat) (hfn : op.toNat % 16 = fn.toNat) :
    formatR f x y fn = op :=
  BitVec.eq_of_toNat_eq (by rw [formatR_toNat]; omega)

theorem formatA_of_fields (hf : familyField op = f) : formatA f (nnnField op) = op :=
  formatA_eq_of_toNat (nnnField_toNat op) (hf ▸ (familyField_toNat op).symm)

theorem formatI_of_fields {nn : Byte} (hf : familyField op = f) (hnn : nnField op = nn) :
    formatI f (xField op) nn = op :=
  formatI_eq_of_toNat (xField_val op) (hnn ▸ (nnField_toNat op).symm) (hf ▸ (familyField_toNat op).symm)

theorem formatR_of_fields {fn : BitVec 4} (hf : familyField op = f) (hfn : nField op = fn) :
    formatR f (xField op) (yField op) fn = op :=
  formatR_eq_of_toNat (xField_val op) (yField_val op) (hf ▸ (familyField_toNat op).symm) (hfn ▸ (nField_toNat op).symm)

/-- Format D with its count read as a number (R92, R99). -/
theorem encode_drw_of_fields (hf : familyField op = 0xD#4) :
    encode (.drw (xField op) (yField op) (nField op).toNat) = op :=
  formatR_of_fields hf (BitVec.ofNat_toNat 4 (nField op)).symm

/-- The count read from the word fits its field (R92). -/
theorem nField_count_wellFormed (op : Word) : (Instr.drw (xField op) (yField op) (nField op).toNat).wellFormed = true :=
  decide_eq_true (Nat.le_of_lt_succ (nField op).isLt)

/-! #### What the decoder answers encodes to the word it read -/

/-- An instruction in the answer is well-formed and encodes to the word. -/
def EncodesBack (op : Word) (d : Decoded) : Prop := ∀ i, d = .instr i → encode i = op ∧ i.wellFormed = true

theorem encodesBack_instr {i : Instr} (he : encode i = op) (hwf : i.wellFormed = true) : EncodesBack op (.instr i) := by
  rintro _ ⟨⟩
  exact ⟨he, hwf⟩

theorem encodesBack_unknown (op : Word) : EncodesBack op (.unknownOpcode op) := nofun

theorem decodeFamily0_encodesBack (op : Word) : EncodesBack op (decodeFamily0 op) := by
  unfold decodeFamily0
  split_ifs with hcls hret
  · exact encodesBack_instr hcls.symm rfl
  · exact encodesBack_instr hret.symm rfl
  · exact encodesBack_unknown op

/-- In families 5 and 9 the function nibble is 0 (R97). -/
theorem decodeFamily59_encodesBack {i : Instr} (he : encode i = formatR f (xField op) (yField op) 0x0#4)
    (hwf : i.wellFormed = true) (hf : familyField op = f) : EncodesBack op (decodeFamily59 i op) := by
  unfold decodeFamily59
  split_ifs with hn
  · exact encodesBack_instr (he.trans (formatR_of_fields hf hn)) hwf
  · exact encodesBack_unknown op

theorem decodeFamily8_encodesBack (hf : familyField op = 0x8#4) : EncodesBack op (decodeFamily8 op) := by
  unfold decodeFamily8
  split
  case h_10 => exact encodesBack_unknown op
  all_goals next hn => exact encodesBack_instr (formatR_of_fields hf hn) rfl

theorem decodeFamilyE_encodesBack (hf : familyField op = 0xE#4) : EncodesBack op (decodeFamilyE op) := by
  unfold decodeFamilyE
  split
  case h_3 => exact encodesBack_unknown op
  all_goals next hb => exact encodesBack_instr (formatI_of_fields hf hb) rfl

theorem decodeFamilyF_encodesBack (hf : familyField op = 0xF#4) : EncodesBack op (decodeFamilyF op) := by
  unfold decodeFamilyF
  split
  case h_10 => exact encodesBack_unknown op
  all_goals next hb => exact encodesBack_instr (formatI_of_fields hf hb) rfl

/-- Every meaning of a word encodes to it, so no two words share one (R110). -/
theorem decode_encodesBack (op : Word) : EncodesBack op (decode op) := by
  unfold decode
  split <;> rename_i hf
  case h_1 => exact decodeFamily0_encodesBack op
  case h_2 | h_3 | h_11 | h_12 => exact encodesBack_instr (formatA_of_fields hf) rfl
  case h_4 | h_5 | h_7 | h_8 | h_13 => exact encodesBack_instr (formatI_of_fields hf rfl) rfl
  case h_6 | h_10 => exact decodeFamily59_encodesBack rfl rfl hf
  case h_9 => exact decodeFamily8_encodesBack hf
  case h_14 => exact encodesBack_instr (encode_drw_of_fields hf) (nField_count_wellFormed op)
  case h_15 => exact decodeFamilyE_encodesBack hf
  case h_16 => exact decodeFamilyF_encodesBack hf
  case h_17 => exact encodesBack_unknown op

/-! #### An encoding decodes to its instruction -/

/-- By format and family: each field of the word is the operand that was put in. -/
theorem decode_encode {i : Instr} (hwf : i.wellFormed = true) : decode (encode i) = .instr i := by
  cases i with
  | cls | ret => rfl
  | jp nnn | call nnn | ldI nnn | jpV0 nnn => simp [encode, decode]
  | seImm x nn | sneImm x nn | ldImm x nn | addImm x nn | rnd x nn => simp [encode, decode]
  | seReg x y | sneReg x y => simp [encode, decode, decodeFamily59]
  | ldReg x y | orReg x y | andReg x y | xorReg x y | addReg x y | sub x y | shr x y | subn x y | shl x y =>
    simp [encode, decode, decodeFamily8]
  | drw x y n =>
    have hn : n % 16 = n := Nat.mod_eq_of_lt (Nat.lt_succ_of_le (of_decide_eq_true hwf))
    simp [encode, decode, hn]
  | skp x | sknp x => simp [encode, decode, decodeFamilyE]
  | ldVxDt x | ldVxK x | ldDtVx x | ldStVx x | addI x | ldF x | ldB x | storeRegs x | loadRegs x =>
    simp [encode, decode, decodeFamilyF]

theorem decode_of_encode {i : Instr} (he : encode i = op) (hwf : i.wellFormed = true) : decode op = .instr i :=
  he ▸ decode_encode hwf

/-! #### The words that are no instruction (rules R94, R97, R98, R100, R101) -/

theorem familyField_eq_of_toNat (hf : op.toNat / 4096 = f.toNat) : familyField op = f :=
  BitVec.eq_of_toNat_eq ((familyField_toNat op).trans hf)

theorem decode_of_family0 (hf : op.toNat / 4096 = 0x0) : decode op = decodeFamily0 op := by
  simp only [decode, familyField_eq_of_toNat (f := 0x0#4) hf]

theorem decode_of_family5 (hf : op.toNat / 4096 = 0x5) :
    decode op = decodeFamily59 (.seReg (xField op) (yField op)) op := by
  simp only [decode, familyField_eq_of_toNat (f := 0x5#4) hf]

theorem decode_of_family9 (hf : op.toNat / 4096 = 0x9) :
    decode op = decodeFamily59 (.sneReg (xField op) (yField op)) op := by
  simp only [decode, familyField_eq_of_toNat (f := 0x9#4) hf]

theorem decode_of_family8 (hf : op.toNat / 4096 = 0x8) : decode op = decodeFamily8 op := by
  simp only [decode, familyField_eq_of_toNat (f := 0x8#4) hf]

theorem decode_of_familyE (hf : op.toNat / 4096 = 0xE) : decode op = decodeFamilyE op := by
  simp only [decode, familyField_eq_of_toNat (f := 0xE#4) hf]

theorem decode_of_familyF (hf : op.toNat / 4096 = 0xF) : decode op = decodeFamilyF op := by
  simp only [decode, familyField_eq_of_toNat (f := 0xF#4) hf]

theorem decodeFamily59_of_ne (i : Instr) (h : op.toNat % 16 ≠ 0) : decodeFamily59 i op = .unknownOpcode op := by
  refine if_neg fun hn => h ?_
  rw [← nField_toNat, hn]
  rfl

theorem decodeFamily8_of_mem (h : op.toNat % 16 ∈ [0x8, 0x9, 0xA, 0xB, 0xC, 0xD, 0xF]) :
    decodeFamily8 op = .unknownOpcode op := by
  rw [← nField_toNat] at h
  unfold decodeFamily8
  split
  case h_10 => rfl
  all_goals next hn => simp [hn] at h

theorem decodeFamilyE_of_notMem (h : op.toNat % 256 ∉ [0x9E, 0xA1]) : decodeFamilyE op = .unknownOpcode op := by
  rw [← nnField_toNat] at h
  unfold decodeFamilyE
  split
  case h_3 => rfl
  all_goals next hb => simp [hb] at h

theorem decodeFamilyF_of_notMem (h : op.toNat % 256 ∉ [0x07, 0x0A, 0x15, 0x18, 0x1E, 0x29, 0x33, 0x55, 0x65]) :
    decodeFamilyF op = .unknownOpcode op := by
  rw [← nnField_toNat] at h
  unfold decodeFamilyF
  split
  case h_10 => rfl
  all_goals next hb => simp [hb] at h

/-! #### The opcode table (rules R93, R114) -/

/-- A selected word has the row's bits in every field that the mask covers (R93). -/
theorem extractLsb'_of_selects {r : TableRow} {k n : Nat} (h : r.selects op = true)
    (hmask : r.mask.extractLsb' k n = BitVec.allOnes n) : op.extractLsb' k n = r.pattern.extractLsb' k n := by
  have hand : op &&& r.mask = r.pattern := eq_of_beq h
  rw [← hand, BitVec.extractLsb'_and, hmask, BitVec.and_allOnes]

theorem eq_of_rowZ_selects {p : Word} (h : (rowZ p).selects op = true) : p = op := by
  have hand : op &&& BitVec.allOnes 16 = p := eq_of_beq h
  rw [← hand, BitVec.and_allOnes]

/-- Every row fixes the family. -/
theorem familyField_of_selects {r : TableRow} (h : r.selects op = true)
    (hmask : r.mask.extractLsb' 12 4 = BitVec.allOnes 4) (hf : familyField r.pattern = f) : familyField op = f :=
  (extractLsb'_of_selects h hmask).trans hf

theorem familyField_of_rowFamily_selects {p : Word} (h : (rowFamily p).selects op = true) (hf : familyField p = f) :
    familyField op = f :=
  familyField_of_selects (r := rowFamily p) h (by decide : (0xF000#16).extractLsb' 12 4 = BitVec.allOnes 4) hf

theorem formatA_of_selects {p : Word} (h : (rowFamily p).selects op = true) (hf : familyField p = f) :
    formatA f (nnnField op) = op :=
  formatA_of_fields (familyField_of_rowFamily_selects h hf)

theorem formatI_of_selects {p : Word} (h : (rowFamily p).selects op = true) (hf : familyField p = f) :
    formatI f (xField op) (nnField op) = op :=
  formatI_of_fields (familyField_of_rowFamily_selects h hf) rfl

theorem formatR_of_selects {p : Word} {fn : BitVec 4} (h : (rowR p).selects op = true) (hf : familyField p = f)
    (hfn : nField p = fn) : formatR f (xField op) (yField op) fn = op := by
  have hn : nField op = nField p :=
    extractLsb'_of_selects (r := rowR p) h (by decide : (0xF00F#16).extractLsb' 0 4 = BitVec.allOnes 4)
  exact formatR_of_fields
    (familyField_of_selects (r := rowR p) h (by decide : (0xF00F#16).extractLsb' 12 4 = BitVec.allOnes 4) hf) (hn.trans hfn)

theorem formatX_of_selects {p : Word} {fn : Byte} (h : (rowX p).selects op = true) (hf : familyField p = f)
    (hfn : nnField p = fn) : formatI f (xField op) fn = op := by
  have hb : nnField op = nnField p :=
    extractLsb'_of_selects (r := rowX p) h (by decide : (0xF0FF#16).extractLsb' 0 8 = BitVec.allOnes 8)
  exact formatI_of_fields
    (familyField_of_selects (r := rowX p) h (by decide : (0xF0FF#16).extractLsb' 12 4 = BitVec.allOnes 4) hf) (hb.trans hfn)

/-- A word that a row selects is the encoding of an instruction of that row: row by row, its format with the word's own
operand fields put in. -/
theorem exists_encode_of_selects : ∀ r ∈ opcodeTable, r.selects op = true →
    ∃ i : Instr, encode i = op ∧ i.wellFormed = true ∧ i.row = r := by
  simp only [opcodeTable, List.cons_append, List.nil_append, List.forall_mem_cons]
  exact ⟨
    fun h => ⟨.cls, eq_of_rowZ_selects h, rfl, rfl⟩,
    fun h => ⟨.ret, eq_of_rowZ_selects h, rfl, rfl⟩,
    fun h => ⟨.jp _, formatA_of_selects h rfl, rfl, rfl⟩,
    fun h => ⟨.call _, formatA_of_selects h rfl, rfl, rfl⟩,
    fun h => ⟨.seImm _ _, formatI_of_selects h rfl, rfl, rfl⟩,
    fun h => ⟨.sneImm _ _, formatI_of_selects h rfl, rfl, rfl⟩,
    fun h => ⟨.seReg _ _, formatR_of_selects h rfl rfl, rfl, rfl⟩,
    fun h => ⟨.ldImm _ _, formatI_of_selects h rfl, rfl, rfl⟩,
    fun h => ⟨.addImm _ _, formatI_of_selects h rfl, rfl, rfl⟩,
    fun h => ⟨.ldReg _ _, formatR_of_selects h rfl rfl, rfl, rfl⟩,
    fun h => ⟨.orReg _ _, formatR_of_selects h rfl rfl, rfl, rfl⟩,
    fun h => ⟨.andReg _ _, formatR_of_selects h rfl rfl, rfl, rfl⟩,
    fun h => ⟨.xorReg _ _, formatR_of_selects h rfl rfl, rfl, rfl⟩,
    fun h => ⟨.addReg _ _, formatR_of_selects h rfl rfl, rfl, rfl⟩,
    fun h => ⟨.sub _ _, formatR_of_selects h rfl rfl, rfl, rfl⟩,
    fun h => ⟨.shr _ _, formatR_of_selects h rfl rfl, rfl, rfl⟩,
    fun h => ⟨.subn _ _, formatR_of_selects h rfl rfl, rfl, rfl⟩,
    fun h => ⟨.shl _ _, formatR_of_selects h rfl rfl, rfl, rfl⟩,
    fun h => ⟨.sneReg _ _, formatR_of_selects h rfl rfl, rfl, rfl⟩,
    fun h => ⟨.ldI _, formatA_of_selects h rfl, rfl, rfl⟩,
    fun h => ⟨.jpV0 _, formatA_of_selects h rfl, rfl, rfl⟩,
    fun h => ⟨.rnd _ _, formatI_of_selects h rfl, rfl, rfl⟩,
    fun h => ⟨.drw _ _ _, encode_drw_of_fields (familyField_of_rowFamily_selects h rfl), nField_count_wellFormed op, rfl⟩,
    fun h => ⟨.skp _, formatX_of_selects h rfl rfl, rfl, rfl⟩,
    fun h => ⟨.sknp _, formatX_of_selects h rfl rfl, rfl, rfl⟩,
    fun h => ⟨.ldVxDt _, formatX_of_selects h rfl rfl, rfl, rfl⟩,
    fun h => ⟨.ldVxK _, formatX_of_selects h rfl rfl, rfl, rfl⟩,
    fun h => ⟨.ldDtVx _, formatX_of_selects h rfl rfl, rfl, rfl⟩,
    fun h => ⟨.ldStVx _, formatX_of_selects h rfl rfl, rfl, rfl⟩,
    fun h => ⟨.addI _, formatX_of_selects h rfl rfl, rfl, rfl⟩,
    fun h => ⟨.ldF _, formatX_of_selects h rfl rfl, rfl, rfl⟩,
    fun h => ⟨.ldB _, formatX_of_selects h rfl rfl, rfl, rfl⟩,
    fun h => ⟨.storeRegs _, formatX_of_selects h rfl rfl, rfl, rfl⟩,
    fun h => ⟨.loadRegs _, formatX_of_selects h rfl rfl, rfl, rfl⟩,
    List.forall_mem_nil _⟩

theorem decode_of_selects {r : TableRow} (hr : r ∈ opcodeTable) (h : r.selects op = true) :
    ∃ i, decode op = .instr i ∧ i.row = r := by
  obtain ⟨i, he, hwf, hrow⟩ := exists_encode_of_selects r hr h
  exact ⟨i, decode_of_encode he hwf, hrow⟩

open Laws.EncodingInRow in
theorem row_selects_encode (i : Instr) : i.row.selects (encode i) = true := by
  cases i
  exacts [cls, ret, jp _, call _, seImm _ _, sneImm _ _, seReg _ _, ldImm _ _, addImm _ _, ldReg _ _, orReg _ _,
    andReg _ _, xorReg _ _, addReg _ _, sub _ _, shr _ _, subn _ _, shl _ _, sneReg _ _, ldI _, jpV0 _, rnd _ _,
    drw _ _ _, skp _, sknp _, ldVxDt _, ldVxK _, ldDtVx _, ldStVx _, addI _, ldF _, ldB _, storeRegs _, loadRegs _]

open Laws.RowInTable in
theorem row_mem_opcodeTable (i : Instr) : i.row ∈ opcodeTable := by
  cases i
  exacts [cls, ret, jp _, call _, seImm _ _, sneImm _ _, seReg _ _, ldImm _ _, addImm _ _, ldReg _ _, orReg _ _,
    andReg _ _, xorReg _ _, addReg _ _, sub _ _, shr _ _, subn _ _, shl _ _, sneReg _ _, ldI _, jpV0 _, rnd _ _,
    drw _ _ _, skp _, sknp _, ldVxDt _, ldVxK _, ldDtVx _, ldStVx _, addI _, ldF _, ldB _, storeRegs _, loadRegs _]

theorem row_selects_of_decode {i : Instr} (hd : decode op = .instr i) : i.row.selects op = true := by
  obtain ⟨rfl, -⟩ := decode_encodesBack op i hd
  exact row_selects_encode i

/-- On a word that decodes, its instruction's row selects it and no other row of the table does (R93). -/
theorem selects_iff_of_decode {i : Instr} (hd : decode op = .instr i) {r : TableRow} (hr : r ∈ opcodeTable) :
    r.selects op = true ↔ r = i.row := by
  constructor
  · intro h
    obtain ⟨j, hj, rfl⟩ := decode_of_selects hr h
    cases hd.symm.trans hj
    rfl
  · rintro rfl
    exact row_selects_of_decode hd

theorem opcodeTable_nodup : opcodeTable.Nodup := by decide

/-- The rows that select a word are its instruction's row, once. -/
theorem filter_selects_of_decode {i : Instr} (hd : decode op = .instr i) :
    opcodeTable.filter (fun r => r.selects op) = [i.row] := by
  have hfilter : opcodeTable.filter (fun r => r.selects op) = opcodeTable.filter (· == i.row) :=
    List.filter_congr fun r hr => Bool.eq_iff_iff.mpr ((selects_iff_of_decode hd hr).trans beq_iff_eq.symm)
  rw [hfilter, List.filter_beq, List.count_eq_one_of_mem opcodeTable_nodup (row_mem_opcodeTable i)]
  rfl

end

end Sys2Proof

section
/-! ### The statements of 30_encoding.md -/

open Sys2Proof

/-- Settles O2: by `decode_encode`, an encoded field is read back as the operand put in. -/
theorem encodedInstructionDecodesToItself : Obligations.EncodedInstructionDecodesToItself :=
  fun _ hwf => decode_encode hwf

/-- Settles O3: by `decode_encodesBack`, a word is put together from the fields the decoder reads. -/
theorem decodedWordEncodesBack : Obligations.DecodedWordEncodesBack := decode_encodesBack

/-- Settles O4: a selected word encodes an instruction of its row, and a decoded word is selected by its own row. -/
theorem opcodeTableSelectsDecodedInstruction : Obligations.OpcodeTableSelectsDecodedInstruction := by
  refine ⟨fun op r hr h => decode_of_selects hr h, fun op i hd => filter_selects_of_decode hd, fun op hnone => ?_,
    fun op => (decode_answers op).symm⟩
  rcases decode_answers op with ⟨i, hd⟩ | hd
  · exact absurd (row_selects_of_decode hd) (Bool.eq_false_iff.mp (hnone i.row (row_mem_opcodeTable i)))
  · exact hd

/-- Settles O5: a word that is an instruction is its encoding, put together from the fields (`decode_of_encode`); for a
word that is none, its family's function rejects every other function field. -/
theorem wordsDecodeByFamily : Obligations.WordsDecodeByFamily := by
  refine ⟨fun op hf => ⟨fun h => h ▸ rfl, fun h => h ▸ rfl, fun hcls hret => ?_⟩, fun op nnn hnnn => ?_,
    fun op x nn hx hnn => ?_, fun op x y hx hy => ⟨fun hf => ?_, fun hf => ?_, fun hf => ?_, fun hf => ?_⟩,
    fun op x hx => ⟨fun hf => ?_, fun hf => ?_⟩⟩
  · rw [decode_of_family0 hf, decodeFamily0, if_neg hcls, if_neg hret]
  · have word {f : BitVec 4} (hf : op.toNat / 4096 = f.toNat) : formatA f nnn = op := formatA_eq_of_toNat hnnn hf
    refine ⟨?_, ?_, ?_, ?_⟩
    all_goals exact fun hf => decode_of_encode (word hf) rfl
  · have word {f : BitVec 4} (hf : op.toNat / 4096 = f.toNat) : formatI f x nn = op := formatI_eq_of_toNat hx hnn.symm hf
    refine ⟨?_, ?_, ?_, ?_, ?_⟩
    all_goals exact fun hf => decode_of_encode (word hf) rfl
  · split_ifs with hn
    · exact decode_of_encode (formatR_eq_of_toNat hx hy hf hn) rfl
    · rw [decode_of_family5 hf, decodeFamily59_of_ne _ hn]
  · split_ifs with hn
    · exact decode_of_encode (formatR_eq_of_toNat hx hy hf hn) rfl
    · rw [decode_of_family9 hf, decodeFamily59_of_ne _ hn]
  · have word {fn : BitVec 4} (hn : op.toNat % 16 = fn.toNat) : formatR 0x8#4 x y fn = op :=
      formatR_eq_of_toNat hx hy hf hn
    refine ⟨?_, ?_, ?_, ?_, ?_, ?_, ?_, ?_, ?_, fun hn => (decode_of_family8 hf).trans (decodeFamily8_of_mem hn)⟩
    all_goals exact fun hn => decode_of_encode (word hn) rfl
  · have hn : op.toNat % 16 = (BitVec.ofNat 4 (op.toNat % 16)).toNat := by rw [BitVec.toNat_ofNat]; omega
    exact decode_of_encode (formatR_eq_of_toNat hx hy hf hn) (decide_eq_true (by omega))
  · have word {fn : Byte} (hb : op.toNat % 256 = fn.toNat) : formatI 0xE#4 x fn = op := formatI_eq_of_toNat hx hb hf
    refine ⟨?_, ?_, fun hb => (decode_of_familyE hf).trans (decodeFamilyE_of_notMem hb)⟩
    all_goals exact fun hb => decode_of_encode (word hb) rfl
  · have word {fn : Byte} (hb : op.toNat % 256 = fn.toNat) : formatI 0xF#4 x fn = op := formatI_eq_of_toNat hx hb hf
    refine ⟨?_, ?_, ?_, ?_, ?_, ?_, ?_, ?_, ?_, fun hb => (decode_of_familyF hf).trans (decodeFamilyF_of_notMem hb)⟩
    all_goals exact fun hb => decode_of_encode (word hb) rfl

/-- Settles O1: the decoder, evaluated on the fifteen words. -/
theorem specWordsDecode : Obligations.SpecWordsDecode := by
  unfold Obligations.SpecWordsDecode
  decide

end

/-! ### The step cycle: completion, what runs in Faulted, and ticks around a step (rules R124, R127, R130, R131) -/

namespace Sys2Proof.Machine

/-- A write of pc with the address it holds changes nothing. -/
theorem setPc_self (s : State) : s.setPc (BitVec.ofNat 16 s.pc.toNat) = s := by
  rw [BitVec.ofNat_toNat, BitVec.setWidth_eq]
  rfl

/-- An absolute jump completes in every state, and writes pc alone (R141). -/
theorem exec_jp (nnn : Addr12) (s : State) : exec (.jp nnn) s = .next (s.setPc (BitVec.ofNat 16 nnn.toNat)) := by
  rw [exec, execJp, commit_of_le s s (nnnAddress_le nnn), nnnAddress_toNat]

/-- A completed instruction leaves pc at its target, where it has one, and else where it was (R124, R230). -/
theorem completed_pc_toNat {i : Instr} {s : State} (hf : instructionFault? i s = none) :
    (completed i s).pc.toNat = (pcTarget? i s).getD s.pc.toNat := by
  rw [completed, State.setPc_pc]
  cases ht : pcTarget? i s with
  | none => rw [Option.getD_none, BitVec.ofNat_toNat, BitVec.setWidth_eq]
  | some t => exact toNat_target ((instructionFault?_eq_none hf).2 t ht)

theorem two_le_skipDistance (cond : Bool) : 2 ≤ skipDistance cond := by cases cond <;> decide

/-- An instruction jumps, calls, returns or waits, or its target is at least two bytes on (R124, R126). -/
theorem jumps_or_waits_or_two_le_target (i : Instr) (s : State) :
    (i = .ret ∨ (∃ nnn, i = .jp nnn ∨ i = .call nnn ∨ i = .jpV0 nnn) ∨ ∃ x, i = .ldVxK x) ∨
    ∃ t, pcTarget? i s = some t ∧ s.pc.toNat + 2 ≤ t := by
  cases i with
  | ret => exact .inl (.inl rfl)
  | jp nnn => exact .inl (.inr (.inl ⟨nnn, .inl rfl⟩))
  | call nnn => exact .inl (.inr (.inl ⟨nnn, .inr (.inl rfl)⟩))
  | jpV0 nnn => exact .inl (.inr (.inl ⟨nnn, .inr (.inr rfl)⟩))
  | ldVxK x => exact .inl (.inr (.inr ⟨x, rfl⟩))
  | seImm _ _ | sneImm _ _ | seReg _ _ | sneReg _ _ | skp _ | sknp _ =>
    exact .inr ⟨_, rfl, Nat.add_le_add_left (two_le_skipDistance _) _⟩
  | _ => exact .inr ⟨_, rfl, le_rfl⟩

/-! #### The operations in Faulted (rules R130, R249, R267, R292) -/

section
variable {s : State} (hs : s.isFaulted = true)
include hs

theorem operate_tick_of_faulted : operate .tick s = .next (s, []) := by
  have htick : s.tick = s := if_pos hs
  have hbeep : s.tickBeeps = false := by rw [State.tickBeeps, hs]; rfl
  rw [operate, htick, hbeep]
  rfl

theorem loadGame_of_gt_of_faulted {bytes : List Byte} (h : bytes.length > 3584) : s.loadGame bytes = s :=
  (loadGame_of_gt h).trans (if_pos hs)

/-- A load in Faulted writes memory at most. -/
theorem loadGame_writes_memory_of_faulted (bytes : List Byte) : ∃ m, s.loadGame bytes = { s with mem := m } := by
  rcases Nat.lt_or_ge 3584 bytes.length with hlen | hlen
  · exact ⟨s.mem, loadGame_of_gt_of_faulted hs hlen⟩
  · exact ⟨_, loadGame_of_le hlen⟩

end

/-- `reset()` is the only way out of a fault (R268). -/
theorem operate_run_of_faulted {op : Operation} {s t : State} {es : List Event} {c : Cause} {p info : Word}
    (hr : s.run = .faulted c p info) (hop : op ≠ .reset) (h : operate op s = .next (t, es)) : t.run = s.run := by
  cases op with
  | reset => exact absurd rfl hop
  | step =>
    have hstep := (operate_step_iff.mp h).1
    rw [step_of_faulted hr] at hstep
    cases hstep
    rfl
  | loadGame bytes =>
    cases h
    obtain ⟨m, hm⟩ := loadGame_writes_memory_of_faulted (isFaulted_of_run hr) bytes
    rw [hm]
  | tick => cases h; exact tick_run s
  | setKey k pressed => cases h; rfl
  | snapshot => cases h; rfl

/-! #### A tick and a step that uses no timer (rules R131, R248) -/

/-- Both timers counted down, as a `tick()` does that is not in Faulted (R244). -/
def State.countTimers (s : State) : State := (s.setDT (countDown s.DT)).setST (countDown s.ST)

theorem tick_of_not_faulted {s : State} (hs : s.isFaulted = false) : s.tick = s.countTimers :=
  if_neg (Bool.eq_false_iff.mp hs)

/-- `u` is `s` with both timers counted down. -/
def TimersCounted (s u : State) : Prop := u = s.countTimers

/-- The timers are no part of a fetch, and no write of `run`, pc or a register touches them (R30, R31). -/
theorem unread_timersCounted : Unread TimersCounted where
  same := by rintro s _ rfl; exact ⟨rfl, rfl, rfl, rfl⟩
  setRun := by rintro s _ rfl r; rfl
  setPc := by rintro s _ rfl w; rfl
  setV := by rintro s _ rfl x b; rfl

/-- The instruction is none of Fx07, Fx15 and Fx18, which alone name a timer (R240 to R242). -/
structure NoTimer (i : Instr) : Prop where
  ne_ldVxDt : ∀ x, i ≠ .ldVxDt x
  ne_ldDtVx : ∀ x, i ≠ .ldDtVx x
  ne_ldStVx : ∀ x, i ≠ .ldStVx x

/-- What an instruction that uses no timer writes is independent of a count before it. -/
theorem NoTimer.writes_countTimers {i : Instr} (hi : NoTimer i) (s : State) :
    writes i s.countTimers = (writes i s).countTimers := by
  cases i with
  | ldVxDt x => exact absurd rfl (hi.ne_ldVxDt x)
  | ldDtVx x => exact absurd rfl (hi.ne_ldDtVx x)
  | ldStVx x => exact absurd rfl (hi.ne_ldStVx x)
  | ret => exact (apply_dite State.countTimers (0 < s.sp.val) s.pop fun _ => s).symm
  | call nnn => exact (apply_dite State.countTimers (s.sp.val < 16) (s.push · s.pc) fun _ => s).symm
  | _ => rfl

/-- An instruction that uses no timer commutes with a count of both. -/
theorem NoTimer.exec {i : Instr} (hi : NoTimer i) (s : State) :
    AnswersRelated TimersCounted (exec i s) (exec i s.countTimers) :=
  unread_timersCounted.exec rfl rfl rfl (hi.writes_countTimers s)

/-- A step that does not execute Fx18 leaves ST (R31). -/
theorem step_ST {s t : State} (h : step s = .next t) (hnext : ∀ x, s.nextInstr? ≠ some (.ldStVx x)) : t.ST = s.ST := by
  rcases step_cases h with ⟨c, info, rfl⟩ | ⟨-, rfl⟩ | ⟨i, hi, hexec⟩ | ⟨x, k, -, -, w, rfl⟩
  · rfl
  · rfl
  · exact exec_keeps State.ST hexec (writes_ST fun x hx => hnext x (hx ▸ hi))
  · rfl

/-- Faulted is left by no step (R130). -/
theorem not_faulted_of_step {s t : State} (h : step s = .next t) (ht : t.isFaulted = false) : s.isFaulted = false := by
  cases hr : s.run with
  | faulted c p info =>
    rw [step_of_faulted hr] at h
    cases h
    exact ht
  | running | awaitingKey x => simp only [State.isFaulted, hr]

/-- A step that executes no timer instruction and raises no fault commutes with a tick (R131, R248). -/
theorem step_tick {s t : State} (hnext : ∀ i, s.nextInstr? = some i → NoTimer i) (h : step s = .next t)
    (ht : t.isFaulted = false) : step s.tick = .next t.tick := by
  obtain ⟨w, hw, rfl⟩ := unread_timersCounted.step rfl (fun i hi => (hnext i hi).exec s) t h
  rw [tick_of_not_faulted (not_faulted_of_step h ht), tick_of_not_faulted ht]
  exact hw

end Sys2Proof.Machine

section
/-! ### The statements of 40_step_cycle.md -/

open Sys2Proof.Machine

/-- Settles O10: by `exec_eq_answer` every instruction answers what the rules list, its first fault or its completion. -/
theorem firstFaultInRuleOrder : Obligations.FirstFaultInRuleOrder := by
  refine fun i s => ⟨fun c info hf => ?_, fun hf => ⟨completed i s, ?_, writes_run i s, completed_pc_toNat hf⟩⟩
  · rw [exec_eq_answer, answerByRules_of_fault hf, raise_eq]
  · rw [exec_eq_answer, answerByRules_of_completes hf]

/-- Settles O7: a step and a tick answer the state itself, a load writes memory at most, and by `operate_run_of_faulted`
`reset()` alone changes `run`. -/
theorem faultedStateIsFrozenUntilReset : Obligations.FaultedStateIsFrozenUntilReset := by
  intro s c p info hr
  have hs : s.isFaulted = true := isFaulted_of_run hr
  have hstep : step s = .next s := step_of_faulted hr
  refine ⟨hstep, operate_step hstep, operate_tick_of_faulted hs, fun k b => rfl, rfl, fun bytes hlen => ?_,
    fun bytes => ?_, fun op t es hop h => operate_run_of_faulted hr hop h⟩
  · rw [operate, loadGame_of_gt_of_faulted hs hlen]
  · obtain ⟨m, hm⟩ := loadGame_writes_memory_of_faulted hs bytes
    exact ⟨m, by rw [operate, hm]⟩

/-- Settles O12: every other instruction's target is at least 0x1000 there, and where an instruction does not fault its
target is in range. -/
theorem onlyJumpsAndWaitsExecuteAtTheTop : Obligations.OnlyJumpsAndWaitsExecuteAtTheTop := by
  intro i s t hpc _ h ht
  rcases exec_answers h with ⟨c, info, -, rfl⟩ | ⟨hf, -⟩
  · cases ht
  · refine (jumps_or_waits_or_two_le_target i s).resolve_right ?_
    rintro ⟨a, ha, hge⟩
    have hle : a ≤ 0xFFF := (instructionFault?_eq_none hf).2 a ha
    rw [hpc] at hge
    exact absurd (Nat.le_trans hge hle) (by decide)

/-- Settles O41: by `step_tick` the states agree, and by `step_ST` both ticks see the same ST. -/
theorem tickCommutesWithStep : Obligations.TickCommutesWithStep := by
  intro s t hany h ht
  have hnext : ∀ i, s.nextInstr? = some i → NoTimer i := by
    intro i hi
    rw [hi] at hany
    constructor <;> rintro x rfl <;> cases hany
  have hST : t.ST = s.ST := step_ST h fun x hx => (hnext _ hx).ne_ldStVx x rfl
  exact ⟨step_tick hnext h ht, by rw [State.tickBeeps, State.tickBeeps, not_faulted_of_step h ht, ht, hST]⟩

/-- Settles O55: the jump writes pc with the address it holds. -/
theorem selfJumpIsIdle : Obligations.SelfJumpIsIdle := by
  intro s nnn hnext hpc
  rw [step_of_nextInstr? hnext, exec_jp, hpc, setPc_self]

end

/-! ### Flow control: jumps, skips, calls and returns (rules R140 to R147) -/

namespace Sys2Proof.Machine

theorem encode_jp (nnn : Addr12) : encode (.jp nnn) = BitVec.ofNat 16 (0x1000 + nnn.toNat) := by
  refine BitVec.eq_of_toNat_eq ((formatA_toNat _ nnn).trans ?_)
  simp only [BitVec.toNat_ofNat]
  omega

/-- Bnnn ends in the write of the unreduced sum to pc (R143). -/
theorem exec_jpV0 (nnn : Addr12) (s : State) :
    exec (.jpV0 nnn) s = commit s s (nnn.toNat + (s.getV 0).toNat) := by
  rw [exec, execJpV0, nnnAddress_toNat]

/-- A call with a slot free completes: it pushes its own address and goes to nnn (R142). -/
theorem exec_call_of_lt {s : State} (nnn : Addr12) (h : s.sp.val < 16) :
    exec (.call nnn) s = .next ((s.push h s.pc).setPc (BitVec.ofNat 16 nnn.toNat)) := by
  rw [exec, execCall_of_lt nnn h, commit_of_le _ _ (nnnAddress_le nnn), nnnAddress_toNat]

/-- A call with 16 slots in use raises StackOverflow with its own word (R142, R262). -/
theorem exec_call_of_full {s : State} (nnn : Addr12) (h : s.sp.val = 16) :
    faultsWith (.call nnn) s .stackOverflow (BitVec.ofNat 16 (0x2000 + nnn.toNat)) := by
  rw [faultsWith, exec, execCall_of_full nnn (by omega), encode_call, raise_eq]

/-- A return with a slot in use pops it and ends in the write of its value plus 2 to pc (R140). -/
theorem exec_ret_of_pos {s : State} {j : Fin 16} (hsp : 0 < s.sp.val) (hj : s.sp.val = j.val + 1) :
    exec .ret s = commit s (s.pop hsp) ((s.slot j).toNat + 2) := by
  rw [exec, execRet_of_pos hsp, top_eq_slot s hsp j hj]

theorem exec_ret_of_empty {s : State} (h : ¬ 0 < s.sp.val) : exec .ret s = raise s .stackUnderflow 0x00EE#16 :=
  execRet_of_empty h

/-- An instruction that ends by `skipIf c` skips exactly where `p` holds, if `c` says whether it does (R124, R126). -/
theorem skipsExactlyWhen_of_skipIf {i : Instr} {s : State} {c : Bool} {p : Prop} (h : exec i s = skipIf c s)
    (hc : c = true ↔ p) : skipsExactlyWhen i s p := by
  have hadv {k : Nat} (hk : (if c then 4 else 2) = k) : exec i s = advance k s s := by rw [h, skipIf, hk]
  refine ⟨fun hp => ?_, fun hp => ?_⟩
  · have h4 := hadv (if_pos (hc.mpr hp))
    exact ⟨fun hle => h4.trans (advance_of_le 4 s s hle), fun hgt => h4.trans (advance_of_gt 4 s s hgt)⟩
  · have h2 := hadv (if_neg fun hcond => hp (hc.mp hcond))
    exact ⟨fun hle => h2.trans (advance_of_le 2 s s hle), fun hgt => h2.trans (advance_of_gt 2 s s hgt)⟩

theorem beq_iff_toNat_eq {w : Nat} {a b : BitVec w} : (a == b) = true ↔ a.toNat = b.toNat :=
  beq_iff_eq.trans BitVec.toNat_inj.symm

theorem bne_iff_toNat_ne {w : Nat} {a b : BitVec w} : (a != b) = true ↔ a.toNat ≠ b.toNat :=
  bne_iff_ne.trans BitVec.toNat_inj.symm.not

/-! #### What a run of operations leaves in the slots below its least depth (rules R28, R142, R148) -/

section
variable {s t : State} {es : List Event} {j : Fin 16}

/-- A step writes no slot but the one at sp (R142). -/
theorem step_slot (h : step s = .next t) (hj : j.val ≠ s.sp.val) : t.slot j = s.slot j :=
  step_keeps (fun s => s.slot j) h fun _ => writes_slot hj

theorem tick_slot (s : State) (j : Fin 16) : s.tick.slot j = s.slot j := by
  unfold State.tick
  split <;> rfl

theorem loadGame_slot (s : State) (bytes : List Byte) (j : Fin 16) : (s.loadGame bytes).slot j = s.slot j := by
  unfold State.loadGame
  split_ifs <;> rfl

/-- No operation but `reset()` writes a slot other than the one at sp (R28). -/
theorem operate_slot {op : Operation} (h : operate op s = .next (t, es)) (hreset : op ≠ .reset)
    (hj : j.val ≠ s.sp.val) : t.slot j = s.slot j := by
  cases op with
  | step => exact step_slot (operate_step_iff.mp h).1 hj
  | loadGame bytes => cases h; exact loadGame_slot s bytes j
  | tick => cases h; exact tick_slot s j
  | setKey k pressed => cases h; rfl
  | snapshot => cases h; rfl
  | reset => exact absurd rfl hreset

/-- A run that avoids instructions has no `reset()`, and the rest of it avoids them too. -/
theorem runAvoids_cons {bad : Instr → Bool} {op : Operation} {ops : List Operation}
    (h : runAvoids bad (op :: ops) s = true) (hop : operate op s = .next (t, es)) :
    op ≠ .reset ∧ runAvoids bad ops t = true := by
  simp only [runAvoids, hop, Bool.and_eq_true] at h
  obtain ⟨hhead, htail⟩ := h
  refine ⟨?_, htail⟩
  rintro rfl
  cases hhead

theorem runKeepsDepth_cons {depth : Nat} {op : Operation} {ops : List Operation}
    (h : runKeepsDepth depth (op :: ops) s = true) (hop : operate op s = .next (t, es)) :
    depth ≤ s.sp.val ∧ runKeepsDepth depth ops t = true := by
  simpa only [runKeepsDepth, hop, Bool.and_eq_true, decide_eq_true_eq] using h

/-- A run without `reset()` that keeps `depth` slots in use leaves those slots as they were (R148). -/
theorem operateAll_slot {bad : Instr → Bool} {depth : Nat} (hj : j.val < depth) :
    ∀ {ops s t es}, operateAll ops s = .next (t, es) → runAvoids bad ops s = true → runKeepsDepth depth ops s = true →
      t.slot j = s.slot j
  | [], _, _, _, h, _, _ => by cases h; rfl
  | _ :: _, _, _, _, h, havoids, hdepth => by
    obtain ⟨_, _, _, hop, hrest, -⟩ := operateAll_cons h
    obtain ⟨hreset, havoids⟩ := runAvoids_cons havoids hop
    obtain ⟨hle, hdepth⟩ := runKeepsDepth_cons hdepth hop
    exact (operateAll_slot hj hrest havoids hdepth).trans (operate_slot hop hreset (by omega))

end

/-! #### Slots at or above sp are items that a step does not read (rules R28, R148) -/

/-- `u` differs from `s` at most in stack slots at or above sp. -/
def SameBelowSp (s u : State) : Prop :=
  ∃ stack : Vector Word 16, u = { s with stack := stack } ∧ ∀ j : Fin 16, j.val < s.sp.val → stack.get j = s.slot j

/-- The stack is no part of a fetch, and no write of `run`, pc or a register touches it or sp (R28, R29). -/
theorem unread_belowSp : Unread SameBelowSp where
  same := by rintro s _ ⟨stack, rfl, -⟩; exact ⟨rfl, rfl, rfl, rfl⟩
  setRun := by rintro s _ ⟨stack, rfl, h⟩ r; exact ⟨stack, rfl, h⟩
  setPc := by rintro s _ ⟨stack, rfl, h⟩ w; exact ⟨stack, rfl, h⟩
  setV := by rintro s _ ⟨stack, rfl, h⟩ x b; exact ⟨stack, rfl, h⟩

theorem Unread.commit {R : State → State → Prop} (hR : Unread R) {s u s' u' : State} (h : R s u) (h' : R s' u')
    (t : Nat) : AnswersRelated R (commit s s' t) (commit u u' t) := by
  rcases Nat.lt_or_ge 0xFFF t with hgt | hle
  · rw [commit_of_gt _ _ hgt, commit_of_gt _ _ hgt]
    exact hR.raise h _ _
  · rw [commit_of_le _ _ hle, commit_of_le _ _ hle]
    exact .next (hR.setPc h' _)

namespace SameBelowSp
variable {s u : State}

/-- A pop lowers sp, and fewer slots have to agree (R140). -/
theorem pop (h : SameBelowSp s u) (hs : 0 < s.sp.val) (hu : 0 < u.sp.val) : SameBelowSp (s.pop hs) (u.pop hu) := by
  obtain ⟨stack, rfl, hslot⟩ := h
  exact ⟨stack, rfl, fun j hj => hslot j (Nat.lt_of_lt_of_le hj (Nat.sub_le _ _))⟩

/-- A push of one word puts it into both stacks, at the slot that comes into use (R142). -/
theorem push (h : SameBelowSp s u) (hs : s.sp.val < 16) (hu : u.sp.val < 16) (w : Word) :
    SameBelowSp (s.push hs w) (u.push hu w) := by
  obtain ⟨stack, rfl, hslot⟩ := h
  refine ⟨stack.set s.sp.val w hs, rfl, fun j hj => ?_⟩
  have hpush := slot_push { s with stack := stack } hs w j
  rw [slot_push]
  exact hpush.trans (ite_congr rfl (fun _ => rfl) fun hne => hslot j (Nat.lt_of_le_of_ne (Nat.le_of_lt_succ hj) hne))

/-- No instruction's writes read a slot at or above sp. -/
theorem writes (h : SameBelowSp s u) (i : Instr) : SameBelowSp (writes i s) (writes i u) := by
  have hsame := h
  obtain ⟨stack, rfl, hslot⟩ := h
  cases i with
  | ret =>
    simp only [Machine.writes]
    split
    · next hsp => exact hsame.pop hsp hsp
    · exact hsame
  | call nnn =>
    simp only [Machine.writes]
    split
    · next hsp => exact hsame.push hsp hsp s.pc
    · exact hsame
  | _ => exact ⟨stack, rfl, hslot⟩

/-- A return reads the slot below sp, and with no slot in use none (R140). -/
theorem exec_ret (h : SameBelowSp s u) : AnswersRelated SameBelowSp (exec .ret s) (exec .ret u) := by
  have hsame := h
  obtain ⟨stack, rfl, hslot⟩ := h
  by_cases hsp : 0 < s.sp.val
  · obtain ⟨j, hj⟩ : ∃ j : Fin 16, s.sp.val = j.val + 1 := ⟨⟨s.sp.val - 1, by omega⟩, by simp only; omega⟩
    have htop : ({ s with stack := stack } : State).slot j = s.slot j := hslot j (by omega)
    rw [exec_ret_of_pos hsp hj, exec_ret_of_pos (s := { s with stack := stack }) hsp hj, htop]
    exact unread_belowSp.commit hsame (hsame.pop hsp hsp) _
  · rw [exec_ret_of_empty hsp, exec_ret_of_empty (s := { s with stack := stack }) hsp]
    exact unread_belowSp.raise hsame _ _

/-- No instruction reads a slot at or above sp (R148). -/
theorem exec (h : SameBelowSp s u) (i : Instr) : AnswersRelated SameBelowSp (exec i s) (exec i u) := by
  have hsame := h
  obtain ⟨stack, rfl, -⟩ := h
  cases i with
  | ret => exact hsame.exec_ret
  | _ => exact unread_belowSp.exec hsame rfl rfl (hsame.writes _)

end SameBelowSp

end Sys2Proof.Machine

section
/-! ### The statements of 41_flow_control.md -/

open Sys2Proof Sys2Proof.Machine

/-- Settles O15: the answers are `exec_call_of_lt` and `exec_call_of_full`, and a push writes one slot, `slot_push`. -/
theorem callPushesItsOwnAddress : Obligations.CallPushesItsOwnAddress := by
  refine fun s nnn => ⟨fun hsp => ?_, exec_call_of_full nnn⟩
  have hnnn : nnn.toNat ≤ 0xFFF := by omega
  exact ⟨_, exec_call_of_lt nnn hsp, rfl, rfl, toNat_target hnnn, slot_push s hsp s.pc⟩

/-- Settles O16: with a slot in use a return ends in the write of its target, `exec_ret_of_pos`; a fault pops nothing. -/
theorem returnResumesAfterTheCall : Obligations.ReturnResumesAfterTheCall := by
  refine fun s => ⟨fun hsp => exec_ret_of_empty (by omega), fun j hj => ?_⟩
  have hpos : 0 < s.sp.val := by omega
  rw [faultsWith, exec_ret_of_pos hpos hj]
  exact ⟨fun hle => ⟨_, commit_of_le s _ hle, rfl, Nat.sub_eq_of_eq_add hj, toNat_target hle⟩, commit_of_gt s _⟩

/-- Settles O17: all four end by `skipIf`, and equal bytes are bytes of the same number. -/
theorem registerSkips : Obligations.RegisterSkips := fun _ _ _ _ =>
  ⟨skipsExactlyWhen_of_skipIf rfl beq_iff_toNat_eq, skipsExactlyWhen_of_skipIf rfl bne_iff_toNat_ne,
    skipsExactlyWhen_of_skipIf rfl beq_iff_toNat_eq, skipsExactlyWhen_of_skipIf rfl bne_iff_toNat_ne⟩

/-- Settles O18: the run between keeps the slot the call wrote, `operateAll_slot`, so the return finds the call's own
address in it. -/
theorem callAndMatchingReturnBalance : Obligations.CallAndMatchingReturnBalance := by
  intro s t u nnn ops es hcall hsp hpc hstep hrun havoids hdepth husp hret
  rw [step_of_nextInstr? hcall, exec_call_of_lt nnn hsp] at hstep
  cases hstep
  have hslot : u.slot ⟨s.sp.val, hsp⟩ = s.pc := by
    refine (operateAll_slot (depth := s.sp.val + 1) (Nat.lt_succ_self _) hrun havoids hdepth).trans ?_
    exact (slot_push s hsp s.pc _).trans (if_pos rfl)
  have huval : u.sp.val = s.sp.val + 1 := congrArg Fin.val husp
  have hexec := exec_ret_of_pos (j := ⟨s.sp.val, hsp⟩) (by omega) huval
  rw [hslot, commit_of_le _ _ hpc] at hexec
  have hr : u.run = .running := run_of_nextInstr? hret
  exact ⟨_, (step_of_nextInstr? hret).trans hexec, hr, toNat_target hpc, Fin.ext (Nat.sub_eq_of_eq_add huval)⟩

/-- Settles O44: slots at or above sp are items that a step does not read, `SameBelowSp.exec`. -/
theorem slotsAboveTheStackPointerAreInvisible : Obligations.SlotsAboveTheStackPointerAreInvisible := by
  intro s u t hu hslot h
  have hsame : SameBelowSp s u := ⟨u.stack, hu, hslot⟩
  obtain ⟨_, hstep, stack, rfl, hbelow⟩ := unread_belowSp.step hsame (fun i _ => hsame.exec i) t h
  exact ⟨_, hstep, rfl, hbelow⟩

/-- Settles O13: the word is the jump's encoding, `encode_jp`, and the jump writes pc alone, `exec_jp`. -/
theorem jumpGoesToItsAddress : Obligations.JumpGoesToItsAddress := by
  refine fun s nnn => ⟨decode_of_encode (encode_jp nnn) rfl, exec_jp nnn s, fun hpc => ?_⟩
  rw [exec_jp, hpc, setPc_self]

/-- Settles O14: by `exec_jpV0` the jump ends in the write of the sum to pc. -/
theorem jumpPlusV0IsNotReduced : Obligations.JumpPlusV0IsNotReduced := by
  refine fun s nnn => ⟨fun hle => ?_, fun hgt => ?_⟩
  · exact (exec_jpV0 nnn s).trans (commit_of_le s s hle)
  · exact (exec_jpV0 nnn s).trans (commit_of_gt s s hgt)

end

/-! ### Registers and flags: an instruction that writes one register, and one that writes VF before it (rules R160 to R173) -/

namespace Sys2Proof.Machine

/-! #### What the flag's write leaves in the registers (rule R173) -/

@[simp] theorem getV_setFlag_F (s : State) (f : Bool) : (s.setFlag f).getV Reg.F = flagByte f := getV_setV_same s Reg.F _

theorem getV_setFlag_ne (s : State) {r : Reg} (h : r ≠ Reg.F) (f : Bool) : (s.setFlag f).getV r = s.getV r :=
  getV_setV_ne s h _

/-- A result written to VF overwrites the flag written there first (decision D6). -/
theorem setFlag_setV_F (s : State) (f : Bool) (b : Byte) : (s.setFlag f).setV Reg.F b = s.setV Reg.F b := by
  simp only [State.setFlag, State.setV, Vector.set_set]

/-! #### The flags as numbers (rule R22) -/

theorem flagByte_decide_toNat (p : Prop) [Decidable p] : (flagByte (decide p)).toNat = bit p := by
  simp only [flagByte_toNat, decide_eq_true_eq, bit]

theorem carryOut_toNat (a b : Byte) : (flagByte (carryOut a b)).toNat = bit (a.toNat + b.toNat > 255) :=
  flagByte_decide_toNat _

theorem noBorrow_toNat (a b : Byte) : (flagByte (noBorrow a b)).toNat = bit (a.toNat ≥ b.toNat) :=
  flagByte_decide_toNat _

theorem flagByte_toNat_eq_bool (f : Bool) : (flagByte f).toNat = f.toNat := by cases f <;> rfl

theorem bitOutRight_toNat (a : Byte) : (flagByte (bitOutRight a)).toNat = a.toNat % 2 := by
  rw [flagByte_toNat_eq_bool, bitOutRight, BitVec.getLsbD, Nat.toNat_testBit, Nat.pow_zero, Nat.div_one]

theorem bitOutLeft_toNat (a : Byte) : (flagByte (bitOutLeft a)).toNat = a.toNat / 128 := by
  rw [flagByte_toNat_eq_bool, bitOutLeft, BitVec.getLsbD, Nat.toNat_testBit]
  omega

/-! #### The results as numbers (rules R161, R166 to R170) -/

theorem byte_sub_toNat {a b : Byte} {m n : Nat} (ha : a.toNat = m) (hb : b.toNat = n) :
    (a - b).toNat = (m + 256 - n) % 256 := by
  rw [BitVec.toNat_sub, ha, hb]
  omega

theorem byte_shiftRight_one_toNat {a : Byte} {m : Nat} (ha : a.toNat = m) : (a >>> 1).toNat = m / 2 := by
  rw [BitVec.toNat_ushiftRight, ha, Nat.shiftRight_one]

theorem byte_shiftLeft_one_toNat {a : Byte} {m : Nat} (ha : a.toNat = m) : (a <<< 1).toNat = 2 * m % 256 := by
  rw [BitVec.toNat_shiftLeft, ha, Nat.shiftLeft_eq]
  omega

/-! #### Completion (rules R125, R160 to R170) -/

section
variable {i : Instr} {s : State} {x : Reg} {b : Byte} {f : Bool} {value flag : Nat}

/-- An instruction that ends by `advance(2)` faults past the top, whatever it wrote (R125, D1). -/
theorem faultsPastTheTop_of_advance {s' : State} {k : Nat} (h : exec i s = advance k s s') : faultsPastTheTop i s k :=
  fun hgt => h.trans (advance_of_gt k s s' hgt)

theorem completesWithReg_of_advance (h : exec i s = advance 2 s (s.setV x b)) (hb : b.toNat = value) :
    completesWithReg i s x value := by
  refine ⟨fun hle => ⟨_, h.trans (advance_of_le 2 s _ hle), rfl, toNat_target hle, ?_, fun r hr => ?_⟩,
    faultsPastTheTop_of_advance h⟩
  · rw [getV_setPc, getV_setV_same, hb]
  · rw [getV_setPc, getV_setV_ne s hr]

/-- The flag first and the result second, in two registers. -/
theorem completesWithRegAndFlag_of_advance (hx : x ≠ Reg.F) (h : exec i s = advance 2 s ((s.setFlag f).setV x b))
    (hb : b.toNat = value) (hf : (flagByte f).toNat = flag) : completesWithRegAndFlag i s x value flag := by
  refine ⟨fun hle => ⟨_, h.trans (advance_of_le 2 s _ hle), rfl, toNat_target hle, ?_, ?_, fun r hr hrF => ?_⟩,
    faultsPastTheTop_of_advance h⟩
  · rw [getV_setPc, getV_setV_same, hb]
  · rw [getV_setPc, getV_setV_ne _ hx.symm, getV_setFlag_F, hf]
  · rw [getV_setPc, getV_setV_ne _ hr, getV_setFlag_ne s hrF]

/-- The flag first and the result second, both in VF: the result stays. -/
theorem completesWithReg_of_advance_flag (h : exec i s = advance 2 s ((s.setFlag f).setV Reg.F b))
    (hb : b.toNat = value) : completesWithReg i s Reg.F value :=
  completesWithReg_of_advance (by rw [h, setFlag_setV_F]) hb

end

end Sys2Proof.Machine

section
/-! ### The statements of 42_alu.md -/

open Sys2Proof Sys2Proof.Machine

/-- Settles O19: each writes one byte to Vx and advances, `completesWithReg_of_advance`. -/
theorem loadsAndAddImmediate : Obligations.LoadsAndAddImmediate := fun _ _ _ _ =>
  ⟨completesWithReg_of_advance rfl rfl, completesWithReg_of_advance rfl (BitVec.toNat_add _ _),
    completesWithReg_of_advance rfl rfl⟩

/-- Settles O20: each writes one byte to Vx and advances, and a bitwise operation on bytes is the one on their numbers. -/
theorem bitwiseInstructions : Obligations.BitwiseInstructions := fun _ _ _ =>
  ⟨completesWithReg_of_advance rfl (BitVec.toNat_or _ _), completesWithReg_of_advance rfl (BitVec.toNat_and _ _),
    completesWithReg_of_advance rfl (BitVec.toNat_xor _ _)⟩

/-- Settles O21: the carry goes to VF and the sum to Vx after it, so for x = F the sum stays. -/
theorem addSetsCarry : Obligations.AddSetsCarry := by
  refine fun s x y => ⟨fun hx => ?_, ?_⟩
  · exact completesWithRegAndFlag_of_advance hx rfl (BitVec.toNat_add _ _) (carryOut_toNat _ _)
  · rintro rfl
    exact completesWithReg_of_advance_flag rfl (BitVec.toNat_add _ _)

/-- Settles O22: an operand other than VF is read as it was, `kept`, and VF as the flag just written, `borrow`; the
result goes to Vx last. -/
theorem subtractAndShiftTable : Obligations.SubtractAndShiftTable := by
  rintro s x y _ _ _ rfl rfl rfl
  have kept {r : Reg} (hr : r ≠ Reg.F) (f : Bool) : ((s.setFlag f).getV r).toNat = (s.getV r).toNat := by
    rw [getV_setFlag_ne s hr]
  have borrow (p q : Byte) : ((s.setFlag (noBorrow p q)).getV Reg.F).toNat = bit (p.toNat ≥ q.toNat) := by
    rw [getV_setFlag_F, noBorrow_toNat]
  refine ⟨fun hx hy => ⟨?_, ?_⟩, ?_, ?_, ?_, fun hx => ⟨?_, ?_⟩, ?_⟩
  · exact completesWithRegAndFlag_of_advance hx rfl (byte_sub_toNat (kept hx _) (kept hy _)) (noBorrow_toNat _ _)
  · exact completesWithRegAndFlag_of_advance hx rfl (byte_sub_toNat (kept hy _) (kept hx _)) (noBorrow_toNat _ _)
  · rintro hx rfl
    exact ⟨completesWithRegAndFlag_of_advance hx rfl (byte_sub_toNat (kept hx _) (borrow _ _)) (noBorrow_toNat _ _),
      completesWithRegAndFlag_of_advance hx rfl (byte_sub_toNat (borrow _ _) (kept hx _)) (noBorrow_toNat _ _)⟩
  · rintro rfl hy
    exact ⟨completesWithReg_of_advance_flag rfl (byte_sub_toNat (borrow _ _) (kept hy _)),
      completesWithReg_of_advance_flag rfl (byte_sub_toNat (kept hy _) (borrow _ _))⟩
  · rintro rfl rfl
    exact ⟨completesWithReg_of_advance_flag rfl (congrArg BitVec.toNat (BitVec.sub_self _)),
      completesWithReg_of_advance_flag rfl (congrArg BitVec.toNat (BitVec.sub_self _))⟩
  · exact completesWithRegAndFlag_of_advance hx rfl (byte_shiftRight_one_toNat (kept hx _)) (bitOutRight_toNat _)
  · exact completesWithRegAndFlag_of_advance hx rfl (byte_shiftLeft_one_toNat (kept hx _)) (bitOutLeft_toNat _)
  · rintro rfl
    have right := bitOutRight_toNat (s.getV Reg.F)
    have left := bitOutLeft_toNat (s.getV Reg.F)
    rw [← getV_setFlag_F s] at right left
    refine ⟨completesWithReg_of_advance_flag rfl ((byte_shiftRight_one_toNat right).trans ?_),
      completesWithReg_of_advance_flag rfl ((byte_shiftLeft_one_toNat left).trans ?_)⟩
    · omega
    · omega

/-- Settles O23: the masked byte goes to Vx and the draw is consumed, where the instruction completes. -/
theorem randomByteIsMasked : Obligations.RandomByteIsMasked := by
  refine fun s x nn => ⟨fun hle => ?_, faultsPastTheTop_of_advance rfl⟩
  refine ⟨_, advance_of_le 2 s _ hle, rfl, toNat_target hle, ?_, fun k hk => ?_, fun r hr => ?_⟩
  · rw [getV_setPc, getV_consumeDraw, getV_setV_same, State.randomByte]
  · rw [getV_setPc, getV_consumeDraw, getV_setV_same, BitVec.getLsbD_and, hk, Bool.and_false]
  · rw [getV_setPc, getV_consumeDraw, getV_setV_ne s hr]

end

/-! ### The index register and the data block at it (rules R63, R64, R75, R190 to R195) -/

namespace Sys2Proof.Machine

section
variable {i : Instr} {s s' : State} {n : Nat}

theorem completesWithIndex_of_advance {w : Word} {value : Nat} (h : exec i s = advance 2 s (s.setI w))
    (hw : w.toNat = value) : completesWithIndex i s value :=
  ⟨fun hle => ⟨_, h.trans (advance_of_le 2 s _ hle), rfl, toNat_target hle, hw⟩, faultsPastTheTop_of_advance h⟩

/-! #### An instruction with a data block of n + 1 bytes at I (rules R64, R125) -/

theorem exec_of_block (h : exec i s = withBlock s (n + 1) (advance 2 s s')) (hI : s.I.toNat + n ≤ 0xFFF) :
    exec i s = advance 2 s s' :=
  h.trans (withBlock_of_fits ((blockFits_iff s _).mpr (.inr hI)) _)

theorem completes_of_block (h : exec i s = withBlock s (n + 1) (advance 2 s s')) (hI : s.I.toNat + n ≤ 0xFFF)
    (hpc : s.pc.toNat + 2 ≤ 0xFFF) : exec i s = .next (s'.setPc (BitVec.ofNat 16 (s.pc.toNat + 2))) :=
  (exec_of_block h hI).trans (advance_of_le 2 s s' hpc)

/-- The range check of the block comes first, the write of pc second; either fault discards the writes (D1, D3). -/
theorem faults_of_block (h : exec i s = withBlock s (n + 1) (advance 2 s s')) :
    (s.I.toNat + n ≤ 0xFFF → faultsPastTheTop i s 2) ∧
    (s.I.toNat + n > 0xFFF → faultsWith i s .outOfRangeAddress 0x1000#16) := by
  refine ⟨fun hI => faultsPastTheTop_of_advance (exec_of_block h hI), fun hI => ?_⟩
  have hout : ¬ s.blockFits (n + 1) = true := by
    rw [blockFits_iff]
    omega
  exact h.trans (withBlock_of_not_fits hout _)

end

theorem exec_ldB (x : Reg) (s : State) :
    exec (.ldB x) s = withBlock s 3 (advance 2 s (s.storeBytes (s.dataAddress 0) (decimalDigits (s.getV x)))) := rfl

theorem exec_storeRegs (x : Reg) (s : State) :
    exec (.storeRegs x) s = withBlock s (x.val + 1) (advance 2 s (s.storeBytes (s.dataAddress 0) (s.regsTo x))) := by
  rw [exec, execStoreRegs, storeBlock, regsTo_length]

theorem exec_loadRegs (x : Reg) (s : State) :
    exec (.loadRegs x) s = withBlock s (x.val + 1) (advance 2 s (s.loadRegsFrom x (s.dataAddress 0))) := rfl

/-- The k-th address of a data access counts from the first (R75). -/
theorem dataAddress_zero_add (s : State) (k : Nat) : s.dataAddress 0 + k = s.dataAddress k := rfl

/-! #### The bytes of a stored block (rules R63, R193, R194) -/

/-- The k-th byte of a block written inside the address space is at the k-th address of it (R63). -/
theorem memByte_storeBytes_add {s : State} {a k : Nat} {bs : List Byte} (hs : s.memWf = true)
    (hlen : a + bs.length ≤ 0x1000) (hk : k < bs.length) : (s.storeBytes a bs).memByte (a + k) = bs[k] := by
  rw [memByte_storeBytes (a + k) hs hlen, dif_pos ⟨Nat.le_add_right a k, Nat.add_lt_add_left hk a⟩]
  simp only [Nat.add_sub_cancel_left]

end Sys2Proof.Machine

section
/-! ### The statements of 43_index_memory.md -/

open Sys2Proof Sys2Proof.Machine

/-- Settles O24: both write I alone and advance; a sum reduced modulo 4096 fits the 16 bits of I. -/
theorem indexLoadAndAdd : Obligations.IndexLoadAndAdd := by
  refine fun s x nnn => ⟨completesWithIndex_of_advance rfl (nnnAddress_toNat nnn), ?_⟩
  have hmod := Nat.mod_lt (s.I.toNat + (s.getV x).toNat) (by decide : 0 < 4096)
  exact completesWithIndex_of_advance rfl (toNat_target (Nat.le_of_lt_succ hmod))

/-- Settles O25: five times the largest byte is 0x4FB, which fits the 16 bits of I. -/
theorem fontAddressIsFiveTimesTheRegister : Obligations.FontAddressIsFiveTimesTheRegister := fun _ _ =>
  completesWithIndex_of_advance rfl (toNat_target (by omega))

/-- Settles O26: the block is the three digits, each less than 10 and so its own byte, `memByte_storeBytes_add`. -/
theorem bcdStoresTheDecimalDigits : Obligations.BcdStoresTheDecimalDigits := by
  rintro s x v hwf rfl
  refine ⟨fun hI hpc => ?_, faults_of_block (exec_ldB x s)⟩
  have stored (k : Nat) (hk : k < 3) :
      (s.storeBytes (s.dataAddress 0) (decimalDigits (s.getV x))).memByte (s.dataAddress k) =
        (decimalDigits (s.getV x))[k] :=
    memByte_storeBytes_add hwf (Nat.succ_le_succ hI) hk
  refine ⟨_, completes_of_block (exec_ldB x s) hI hpc, rfl, toNat_target hpc, ?_, ?_, ?_, fun a ha => ?_⟩
  · rw [memByte_setPc, stored 0 (by decide)]
    exact Nat.mod_eq_of_lt (by omega)
  · rw [memByte_setPc, stored 1 (by decide)]
    exact Nat.mod_eq_of_lt (by omega)
  · rw [memByte_setPc, stored 2 (by decide)]
    exact Nat.mod_eq_of_lt (by omega)
  · exact memByte_storeBytes_other s ha

/-- Settles O27: the block is V0..Vx, whose k-th byte is Vk, `regsTo_getElem`. -/
theorem storeRegistersFromIndex : Obligations.StoreRegistersFromIndex := by
  refine fun s x hwf => ⟨fun hI hpc => ?_, faults_of_block (exec_storeRegs x s)⟩
  have hlen : (s.regsTo x).length = x.val + 1 := regsTo_length s x
  refine ⟨_, completes_of_block (exec_storeRegs x s) hI hpc, rfl, toNat_target hpc, fun k hk => ?_, fun a ha => ?_⟩
  · have hblock : s.dataAddress 0 + (s.regsTo x).length ≤ 0x1000 := by
      rw [hlen]
      exact Nat.succ_le_succ hI
    rw [memByte_setPc, ← dataAddress_zero_add s k.val, memByte_storeBytes_add hwf hblock (by omega), regsTo_getElem]
  · refine memByte_storeBytes_other s (ha.imp_right fun h => ?_)
    rw [hlen]
    exact h

/-- Settles O28: a block load reads the registers up to Vx from the block and keeps the others, `getV_loadRegsFrom`. -/
theorem loadRegistersFromIndex : Obligations.LoadRegistersFromIndex := by
  refine fun s x => ⟨fun hI hpc => ?_, faults_of_block (exec_loadRegs x s)⟩
  refine ⟨_, completes_of_block (exec_loadRegs x s) hI hpc, rfl, toNat_target hpc, fun k hk => ?_, fun k hk => ?_⟩
  · rw [getV_setPc, getV_loadRegsFrom, if_pos hk, dataAddress_zero_add]
  · rw [getV_setPc, getV_loadRegsFrom, if_neg (Nat.not_le.mpr hk)]

/-- Settles O29: Fx65 reads the addresses that Fx55 wrote, since I is the same and the bytes are those it left. -/
theorem storedRegistersLoadBack : Obligations.StoredRegistersLoadBack := by
  intro s t u w x hwf hI hpc hstore hbytes huI hupc hload k
  obtain ⟨_, hstore', -, -, hstored, -⟩ := (storeRegistersFromIndex s x hwf).1 hI hpc
  obtain ⟨_, hload', -, -, hloaded, hkept⟩ := (loadRegistersFromIndex u x).1 (huI ▸ hI) hupc
  cases hstore.symm.trans hstore'
  cases hload.symm.trans hload'
  split
  · next hle =>
    have haddress : u.dataAddress k.val = s.dataAddress k.val := by rw [State.dataAddress, huI, State.dataAddress]
    rw [hloaded k hle, haddress, hbytes, hstored k hle]
  · next hgt => exact hkept k (Nat.lt_of_not_le hgt)

end

/-! ### Display: a drawing as the list of the pixels it toggles (rules R210 to R214) -/

namespace Sys2Proof.Machine

/-! #### Pixels and framebuffers -/

/-- Framebuffers with the same pixels are the same framebuffer. -/
theorem framebuffer_eq_of_pixel {fb fb' : Framebuffer}
    (h : ∀ c r, Framebuffer.pixel fb c r = Framebuffer.pixel fb' c r) : fb = fb' :=
  Vector.ext fun r hr => Vector.ext fun c hc => h ⟨c, hc⟩ ⟨r, hr⟩

theorem flagByte_eq_one_iff (f : Bool) : flagByte f = 1#8 ↔ f = true := by cases f <;> decide

/-! #### Toggling a list of pixels -/

/-- The body of the loops of Dxyn at a set sprite bit: note a collision, then toggle the pixel (R212). -/
def Drawing.toggle (d : Drawing) (p : Fin 64 × Fin 32) : Drawing :=
  ⟨Framebuffer.toggle d.fb p.1 p.2, d.collision || Framebuffer.pixel d.fb p.1 p.2⟩

theorem pixel_drawing_toggle_ne (d : Drawing) {p q : Fin 64 × Fin 32} (h : q ≠ p) :
    Framebuffer.pixel (d.toggle p).fb q.1 q.2 = Framebuffer.pixel d.fb q.1 q.2 :=
  (pixel_toggle ..).trans (if_neg fun hq => h (Prod.ext hq.1 hq.2))

theorem pixel_drawing_toggle_self (d : Drawing) (p : Fin 64 × Fin 32) :
    Framebuffer.pixel (d.toggle p).fb p.1 p.2 = !(Framebuffer.pixel d.fb p.1 p.2) :=
  (pixel_toggle ..).trans (if_pos ⟨rfl, rfl⟩)

theorem pixel_foldl_toggle_of_notMem {ps : List (Fin 64 × Fin 32)} {q : Fin 64 × Fin 32} (hq : q ∉ ps) (d : Drawing) :
    Framebuffer.pixel (ps.foldl Drawing.toggle d).fb q.1 q.2 = Framebuffer.pixel d.fb q.1 q.2 := by
  induction ps generalizing d with
  | nil => rfl
  | cons p ps ih =>
    obtain ⟨hne, hq⟩ := List.ne_and_not_mem_of_not_mem_cons hq
    rw [List.foldl_cons, ih hq, pixel_drawing_toggle_ne d hne]

theorem pixel_foldl_toggle_of_mem {ps : List (Fin 64 × Fin 32)} (hps : ps.Nodup) {q : Fin 64 × Fin 32} (hq : q ∈ ps)
    (d : Drawing) :
    Framebuffer.pixel (ps.foldl Drawing.toggle d).fb q.1 q.2 = !(Framebuffer.pixel d.fb q.1 q.2) := by
  induction ps generalizing d with
  | nil => cases hq
  | cons p ps ih =>
    obtain ⟨hp, hps⟩ := List.nodup_cons.mp hps
    rw [List.foldl_cons]
    rcases List.mem_cons.mp hq with rfl | hq
    · rw [pixel_foldl_toggle_of_notMem hp, pixel_drawing_toggle_self]
    · rw [ih hps hq, pixel_drawing_toggle_ne d (ne_of_mem_of_not_mem hq hp)]

/-- No pixel comes twice, so each collision test sees the framebuffer as it was before the first toggle (R213). -/
theorem collision_foldl_toggle {ps : List (Fin 64 × Fin 32)} (hps : ps.Nodup) (d : Drawing) :
    (ps.foldl Drawing.toggle d).collision = true ↔
      d.collision = true ∨ ∃ q ∈ ps, Framebuffer.pixel d.fb q.1 q.2 = true := by
  induction ps generalizing d with
  | nil => simp
  | cons p ps ih =>
    obtain ⟨hp, hps⟩ := List.nodup_cons.mp hps
    have untouched : (∃ q ∈ ps, Framebuffer.pixel (d.toggle p).fb q.1 q.2 = true) ↔
        ∃ q ∈ ps, Framebuffer.pixel d.fb q.1 q.2 = true :=
      exists_congr fun q => and_congr_right fun hq => by
        rw [pixel_drawing_toggle_ne d (ne_of_mem_of_not_mem hq hp)]
    rw [List.foldl_cons, ih hps, untouched, Drawing.toggle, Bool.or_eq_true, or_assoc, List.exists_mem_cons_iff]

/-! #### The pixels of a sprite (rules R211, R213) -/

/-- The pixels under the 1 bits of one sprite row, most significant bit first. -/
def rowPixels (vx vy i : Nat) (row : Byte) : List (Fin 64 × Fin 32) :=
  ((List.range 8).filter fun b => row.getLsbD (7 - b)).map fun b => (spriteColumn vx b, spriteRow vy i)

/-- The pixels under the 1 bits of a sprite, in the order of the loops of R212. -/
def spritePixels (s : State) (vx vy n : Nat) : List (Fin 64 × Fin 32) :=
  (List.range n).flatMap fun i => rowPixels vx vy i (s.memByte (s.dataAddress i))

theorem drawRow_eq_foldl (vx vy i : Nat) (row : Byte) (d : Drawing) :
    drawRow vx vy i row d = (rowPixels vx vy i row).foldl Drawing.toggle d := by
  rw [rowPixels, List.foldl_map, List.foldl_filter]
  rfl

theorem drawSprite_eq_foldl (s : State) (vx vy n : Nat) :
    drawSprite s vx vy n = (spritePixels s vx vy n).foldl Drawing.toggle ⟨s.fb, false⟩ := by
  simp only [drawSprite, spritePixels, List.foldl_flatMap, drawRow_eq_foldl]

theorem mem_rowPixels {vx vy i : Nat} {row : Byte} {p : Fin 64 × Fin 32} :
    p ∈ rowPixels vx vy i row ↔
      ∃ b < 8, row.getLsbD (7 - b) = true ∧ (spriteColumn vx b, spriteRow vy i) = p := by
  simp only [rowPixels, List.mem_map, List.mem_filter, List.mem_range, and_assoc]

theorem mem_spritePixels {s : State} {vx vy n : Nat} {c : Fin 64} {r : Fin 32} :
    (c, r) ∈ spritePixels s vx vy n ↔ spriteCovers s vx vy n c r := by
  simp only [spritePixels, List.mem_flatMap, List.mem_range, mem_rowPixels, Prod.mk.injEq]
  constructor
  · rintro ⟨i, hi, b, hb, hbit, rfl, rfl⟩
    exact ⟨i, b, hi, hb, rfl, rfl, hbit⟩
  · rintro ⟨i, b, hi, hb, hc, hr, hbit⟩
    exact ⟨i, hi, b, hb, hbit, Fin.ext hc.symm, Fin.ext hr.symm⟩

/-- The 8 columns of a row are distinct, because 8 ≤ 64 (R213). -/
theorem spriteColumn_inj {vx b b' : Nat} (hb : b < 8) (hb' : b' < 8) (h : spriteColumn vx b = spriteColumn vx b') :
    b = b' := by
  have hval : (vx + b) % 64 = (vx + b') % 64 := congrArg Fin.val h
  omega

/-- The rows of a sprite are distinct, because 15 ≤ 32 (R213). -/
theorem spriteRow_inj {vy i i' : Nat} (hi : i < 32) (hi' : i' < 32) (h : spriteRow vy i = spriteRow vy i') : i = i' := by
  have hval : (vy + i) % 32 = (vy + i') % 32 := congrArg Fin.val h
  omega

theorem rowPixels_nodup (vx vy i : Nat) (row : Byte) : (rowPixels vx vy i row).Nodup := by
  refine List.Nodup.map_on (fun b hb b' hb' h => ?_) (List.nodup_range.filter _)
  exact spriteColumn_inj (List.mem_range.mp (List.mem_of_mem_filter hb)) (List.mem_range.mp (List.mem_of_mem_filter hb'))
    (congrArg Prod.fst h)

theorem rowPixels_disjoint {vx vy i i' : Nat} (hi : i < 32) (hi' : i' < 32) (hne : i ≠ i') (row row' : Byte) :
    List.Disjoint (rowPixels vx vy i row) (rowPixels vx vy i' row') := by
  intro p hp hp'
  obtain ⟨b, -, -, rfl⟩ := mem_rowPixels.mp hp
  obtain ⟨b', -, -, h⟩ := mem_rowPixels.mp hp'
  exact hne (spriteRow_inj hi hi' (congrArg Prod.snd h).symm)

/-- No pixel is addressed twice within one Dxyn (R213). -/
theorem spritePixels_nodup (s : State) (vx vy : Nat) {n : Nat} (hn : n ≤ 15) : (spritePixels s vx vy n).Nodup := by
  refine List.nodup_flatMap.mpr ⟨fun i _ => rowPixels_nodup .., ?_⟩
  refine List.nodup_range.pairwise_of_forall_ne fun i hi j hj hne => ?_
  have := List.mem_range.mp hi
  have := List.mem_range.mp hj
  exact rowPixels_disjoint (by omega) (by omega) hne _ _

/-! #### The parallel definition of Dxyn (rule R213) -/

section
variable {s t : State} {vx vy n : Nat} {c : Fin 64} {r : Fin 32}

theorem pixel_drawSprite_of_covered (hn : n ≤ 15) (h : spriteCovers s vx vy n c r) :
    Framebuffer.pixel (drawSprite s vx vy n).fb c r = !(Framebuffer.pixel s.fb c r) := by
  rw [drawSprite_eq_foldl]
  exact pixel_foldl_toggle_of_mem (spritePixels_nodup s vx vy hn) (mem_spritePixels.mpr h) _

theorem pixel_drawSprite_of_not_covered (h : ¬ spriteCovers s vx vy n c r) :
    Framebuffer.pixel (drawSprite s vx vy n).fb c r = Framebuffer.pixel s.fb c r := by
  rw [drawSprite_eq_foldl]
  exact pixel_foldl_toggle_of_notMem (mt mem_spritePixels.mp h) _

theorem collision_drawSprite (hn : n ≤ 15) :
    (drawSprite s vx vy n).collision = true ↔
      ∃ c r, spriteCovers s vx vy n c r ∧ Framebuffer.pixel s.fb c r = true := by
  rw [drawSprite_eq_foldl, collision_foldl_toggle (spritePixels_nodup s vx vy hn)]
  simp only [Bool.false_eq_true, false_or, Prod.exists, mem_spritePixels]

/-! #### The same sprite drawn on what its first draw left (rule R213, last sentence) -/

/-- The sprite is read from memory at I alone. -/
theorem spriteCovers_congr (hI : t.I = s.I) (hbytes : ∀ a, t.memByte a = s.memByte a) :
    spriteCovers t vx vy n c r ↔ spriteCovers s vx vy n c r := by
  simp only [spriteCovers, hI, hbytes]

/-- Toggling a pixel twice restores it. -/
theorem drawSprite_fb_of_drawn (hn : n ≤ 15) (hfb : t.fb = (drawSprite s vx vy n).fb)
    (same : ∀ c r, spriteCovers t vx vy n c r ↔ spriteCovers s vx vy n c r) : (drawSprite t vx vy n).fb = s.fb := by
  refine framebuffer_eq_of_pixel fun c r => ?_
  by_cases h : spriteCovers s vx vy n c r
  · rw [pixel_drawSprite_of_covered hn ((same c r).mpr h), hfb, pixel_drawSprite_of_covered hn h, Bool.not_not]
  · rw [pixel_drawSprite_of_not_covered (mt (same c r).mp h), hfb, pixel_drawSprite_of_not_covered h]

/-- The second draw collides exactly where the first turned a pixel on. -/
theorem collision_drawSprite_of_drawn (hn : n ≤ 15) (hfb : t.fb = (drawSprite s vx vy n).fb)
    (same : ∀ c r, spriteCovers t vx vy n c r ↔ spriteCovers s vx vy n c r) :
    (drawSprite t vx vy n).collision = true ↔
      ∃ c r, Framebuffer.pixel s.fb c r = false ∧ Framebuffer.pixel t.fb c r = true := by
  rw [collision_drawSprite hn]
  refine exists_congr fun c => exists_congr fun r => ?_
  rw [same c r, hfb]
  by_cases h : spriteCovers s vx vy n c r
  · simp [h, pixel_drawSprite_of_covered hn h]
  · simp [h, pixel_drawSprite_of_not_covered h]

end

/-! #### Dxyn as a block instruction (rules R212, R264) -/

theorem exec_drw (x y : Reg) (n : Nat) (s : State) :
    exec (.drw x y n) s = withBlock s n (advance 2 s (writes (.drw x y n) s)) := rfl

/-- With n = 0 no memory is read, whatever I is (R212). -/
theorem blockFits_iff_last (s : State) (n : Nat) : s.blockFits n = true ↔ n = 0 ∨ s.I.toNat + n - 1 ≤ 0xFFF := by
  rw [blockFits_iff]
  omega

theorem exec_drw_of_fits {s : State} {n : Nat} (hI : n = 0 ∨ s.I.toNat + n - 1 ≤ 0xFFF) (x y : Reg) :
    exec (.drw x y n) s = advance 2 s (writes (.drw x y n) s) :=
  withBlock_of_fits ((blockFits_iff_last s n).mpr hI) _

theorem getV_F_writes_drw (x y : Reg) (n : Nat) (s : State) :
    (writes (.drw x y n) s).getV Reg.F = flagByte (drawSprite s (s.getV x).toNat (s.getV y).toNat n).collision :=
  getV_setFlag_F s _

/-- A draw that leaves the engine running has completed. -/
theorem drw_completed {s t : State} {x y : Reg} {n : Nat} (h : exec (.drw x y n) s = .next t) (ht : t.run = .running) :
    ∃ w : Word, t = (writes (.drw x y n) s).setPc w := by
  rcases exec_cases h with ⟨c, info, rfl⟩ | hw
  · cases ht
  · exact hw

end Sys2Proof.Machine

section
/-! ### The statements of 44_display.md -/

open Sys2Proof Sys2Proof.Machine

/-- Settles O33: the loops toggle a list of pixels without repetition, so `pixel_drawSprite_of_covered`,
`pixel_drawSprite_of_not_covered` and `collision_drawSprite` give the parallel form. -/
theorem drawIsTheParallelXor : Obligations.DrawIsTheParallelXor := by
  rintro s x y n _ _ hn rfl rfl
  refine ⟨fun hI => faultsPastTheTop_of_advance (exec_drw_of_fits hI x y), fun hpos hI => ?_, fun hI hpc => ?_⟩
  · have hout : ¬ s.blockFits n = true := by
      rw [blockFits_iff_last]
      omega
    exact withBlock_of_not_fits hout _
  · refine ⟨_, (exec_drw_of_fits hI x y).trans (advance_of_le 2 s _ hpc), rfl, toNat_target hpc,
      fun c r => ⟨pixel_drawSprite_of_covered hn, pixel_drawSprite_of_not_covered⟩,
      fun hhit => ?_, fun hmiss => ?_, fun r hr => ?_⟩
    · rw [getV_setPc, getV_F_writes_drw, (collision_drawSprite hn).mpr hhit, flagByte_true]
    · rw [getV_setPc, getV_F_writes_drw, Bool.eq_false_iff.mpr (mt (collision_drawSprite hn).mp hmiss), flagByte_false]
    · exact getV_setFlag_ne s hr _

/-- Settles O34: the first draw leaves I, memory and, by the premises, the origin, so the second covers the same pixels;
`drawSprite_fb_of_drawn` and `collision_drawSprite_of_drawn` then say what it leaves. -/
theorem drawingTwiceRestoresTheScreen : Obligations.DrawingTwiceRestoresTheScreen := by
  intro s t u x y n hn _ hst ht hx hy htu hu
  obtain ⟨w, hw⟩ := drw_completed hst ht
  obtain ⟨w', rfl⟩ := drw_completed htu hu
  have hfb : t.fb = (drawSprite s (t.getV x).toNat (t.getV y).toNat n).fb := by
    rw [hx, hy, hw]
    rfl
  have same (c : Fin 64) (r : Fin 32) : spriteCovers t (t.getV x).toNat (t.getV y).toNat n c r ↔
      spriteCovers s (t.getV x).toNat (t.getV y).toNat n c r :=
    spriteCovers_congr (by rw [hw]; rfl) (fun a => by rw [hw]; rfl)
  refine ⟨drawSprite_fb_of_drawn hn hfb same, ?_⟩
  rw [getV_setPc, getV_F_writes_drw, flagByte_eq_one_iff, collision_drawSprite_of_drawn hn hfb same]

/-- Settles O32: 00E0 shows the blank framebuffer, whose pixels are all 0, `pixel_blank`, and advances. -/
theorem clearBlanksEveryPixel : Obligations.ClearBlanksEveryPixel := fun s =>
  ⟨fun hle => ⟨_, advance_of_le 2 s _ hle, rfl, toNat_target hle, pixel_blank⟩, faultsPastTheTop_of_advance rfl⟩

end

/-! ### Keys: the key skips, the key-wait poll, and what a step does to `run` (rules R227, R228, R230 to R232) -/

namespace Sys2Proof.Machine

section
variable {s t : State} {x : Reg} {k : Fin 16}

/-! #### The key skips (rules R227, R228, R269) -/

/-- A register that names key k skips by its flag. -/
theorem skipOnKey_of_val_eq (hk : k.val = (s.getV x).toNat) (down : Bool) :
    skipOnKey x down s = skipIf (s.key.get k == down) s := by
  simp only [skipOnKey, (keyIndex?_eq_some _ _).mpr hk]

/-- A number above 0xF names no key, and is the info of the fault. -/
theorem skipOnKey_of_gt (h : (s.getV x).toNat > 0xF) (down : Bool) :
    skipOnKey x down s = raise s .keyIndexOutOfRange (BitVec.ofNat 16 (s.getV x).toNat) := by
  simp only [skipOnKey, (keyIndex?_eq_none _).mpr h, BitVec.ofNat_toNat]

/-! #### The key-wait poll (rule R231) -/

/-- A poll that sees no key changes nothing. -/
theorem step_of_awaiting_of_up (hr : s.run = .awaitingKey x) (hup : ∀ k, s.key.get k = false) : step s = .next s :=
  (step_of_awaiting hr).trans (pollKey_of_none ((lowestKey?_eq_none _).mpr hup))

/-- A poll that sees keys writes the lowest one's number and advances by 2. -/
theorem step_of_awaiting_of_lowest (hr : s.run = .awaitingKey x) (hk : lowestKey? s.key = some k) :
    step s = advance 2 s (pollWrites x k s) :=
  (step_of_awaiting hr).trans (pollKey_of_some hk)

/-- Where a key is down, one of those down is the lowest. -/
theorem exists_lowestKey? {key : Vector Bool 16} (hk : key.get k = true) : ∃ j, lowestKey? key = some j :=
  Option.ne_none_iff_exists'.mp fun hnone => by
    rw [(lowestKey?_eq_none key).mp hnone k] at hk
    cases hk

/-- A poll that sees a key runs again, where pc + 2 is in range. -/
theorem run_of_poll_of_le (hr : s.run = .awaitingKey x) (hk : s.key.get k = true) (hle : s.pc.toNat + 2 ≤ 0xFFF)
    (h : step s = .next t) : t.run = .running := by
  obtain ⟨j, hj⟩ := exists_lowestKey? hk
  rw [step_of_awaiting_of_lowest hr hj, advance_of_le _ _ _ hle] at h
  cases h
  rfl

/-- A poll that sees a key faults, where pc + 2 is out of range (D11). -/
theorem run_of_poll_of_gt (hr : s.run = .awaitingKey x) (hk : s.key.get k = true) (hgt : s.pc.toNat + 2 > 0xFFF)
    (h : step s = .next t) : t.run = .faulted .outOfRangeAddress s.pc (BitVec.ofNat 16 (s.pc.toNat + 2)) := by
  obtain ⟨j, hj⟩ := exists_lowestKey? hk
  rw [step_of_awaiting_of_lowest hr hj, advance_of_gt _ _ _ hgt] at h
  cases h
  rfl

/-! #### What a step in Running does to `run` (rules R120, R123, R230) -/

/-- The step that executes Fx0A enters the wait. -/
theorem run_of_step_ldVxK (hi : s.nextInstr? = some (.ldVxK x)) (h : step s = .next t) : t.run = .awaitingKey x := by
  rw [step_of_nextInstr? hi] at h
  cases h
  rfl

/-- A step in Running that executes no instruction faults (R121, R122). -/
theorem isFaulted_of_step_of_nextInstr?_none (hr : s.run = .running) (hi : s.nextInstr? = none)
    (h : step s = .next t) : t.isFaulted = true := by
  rcases step_running_cases hr with ⟨i, hsome, -⟩ | ⟨-, c, info, hstep⟩
  · cases hi.symm.trans hsome
  · rw [hstep] at h
    cases h
    rfl

/-- A step in Running that neither executes Fx0A nor faults goes on running. -/
theorem run_of_step_of_ne_ldVxK (hr : s.run = .running) (hwait : ∀ x, s.nextInstr? ≠ some (.ldVxK x))
    (h : step s = .next t) (ht : t.isFaulted = false) : t.run = .running := by
  cases hi : s.nextInstr? with
  | none => cases ht.symm.trans (isFaulted_of_step_of_nextInstr?_none hr hi h)
  | some i =>
    rw [step_of_nextInstr? hi] at h
    rcases exec_run (fun x hx => hwait x (hx ▸ hi)) h with hsame | ⟨c, info, hfault⟩
    · exact hsame.trans hr
    · cases ht.symm.trans (isFaulted_of_run hfault)

end

/-! #### What the other operations do to `run` (rules R226, R232, R290, R291) -/

/-- A load that fits leaves `run`. -/
theorem loadGame_run_of_le {s : State} {bytes : List Byte} (h : bytes.length ≤ 3584) :
    (s.loadGame bytes).run = s.run := by
  rw [loadGame_of_le h, State.storeBytes_run]

end Sys2Proof.Machine

section
/-! ### The statements of 45_keys.md -/

open Sys2Proof Sys2Proof.Machine

/-- Settles O11: in Running by the instruction the step executes, in AwaitingKey by the keys the poll sees. -/
theorem runStateMachine : Obligations.RunStateMachine := by
  refine ⟨fun s t h => ⟨fun hr => ?_, fun x hr => ?_, fun c p info hr => ?_⟩, fun op s t es h => ?_⟩
  · exact ⟨fun x hi => run_of_step_ldVxK hi h, fun hwait ht => run_of_step_of_ne_ldVxK hr hwait h ht,
      fun hi => isFaulted_of_step_of_nextInstr?_none hr hi h⟩
  · refine ⟨fun hup => ?_, fun k hk hle => run_of_poll_of_le hr hk hle h, fun k hk hpc => ?_⟩
    · rw [step_of_awaiting_of_up hr hup] at h
      cases h
      rfl
    · have hgt : s.pc.toNat + 2 > 0xFFF := by rw [hpc]; decide
      have hrun := run_of_poll_of_gt hr hk hgt h
      rwa [hpc] at hrun
  · rw [step_of_faulted hr] at h
    cases h
    rfl
  · refine ⟨?_, ?_, ?_, ?_, ?_⟩
    · rintro rfl
      cases h
      rfl
    · rintro rfl
      cases h
      exact tick_run s
    · rintro rfl
      cases h
      rfl
    · rintro k b rfl
      cases h
      rfl
    · rintro bytes rfl hlen
      cases h
      exact loadGame_run_of_le hlen

/-- Settles O35: a register that names a key skips by its flag, `skipOnKey_of_val_eq`; one that names none faults. -/
theorem keySkips : Obligations.KeySkips := fun _ _ =>
  ⟨fun _ hk => ⟨skipsExactlyWhen_of_skipIf (skipOnKey_of_val_eq hk true) beq_iff_eq,
    skipsExactlyWhen_of_skipIf (skipOnKey_of_val_eq hk false) beq_iff_eq⟩,
    fun hgt => ⟨skipOnKey_of_gt hgt true, skipOnKey_of_gt hgt false⟩⟩

/-- Settles O36: the key that is down below no other is the one the poll finds, `lowestKey?_eq_some`, and its number fits
a byte. -/
theorem keyWaitEntersAndPolls : Obligations.KeyWaitEntersAndPolls := by
  refine ⟨fun s x => rfl, fun s x hr => ⟨step_of_awaiting_of_up hr, fun k hk hlow => ?_⟩⟩
  have hstep := step_of_awaiting_of_lowest hr ((lowestKey?_eq_some _ _).mpr ⟨hk, hlow⟩)
  refine ⟨fun hle => ⟨_, hstep.trans (advance_of_le 2 s _ hle), rfl, toNat_target hle, ?_, fun r hne => ?_⟩,
    fun hgt => hstep.trans (advance_of_gt 2 s _ hgt)⟩
  · rw [getV_setPc, pollWrites, getV_setRun, getV_setV_same, BitVec.toNat_ofNat]
    omega
  · rw [getV_setPc, pollWrites, getV_setRun, getV_setV_ne s hne]

end

/-! ### Timers: counting down, and the beep (rules R30, R31, R240 to R246) -/

namespace Sys2Proof.Machine

/-- One decrement takes 1 and stops at 0, as the difference of naturals does. -/
theorem countDown_toNat (b : Byte) : (countDown b).toNat = b.toNat - 1 := by
  unfold countDown
  split
  · next h => rw [h]; rfl
  · next h =>
    have hpos : 1#8 ≤ b := by bv_omega
    rw [BitVec.toNat_sub_of_le hpos]
    rfl

/-- Where the engine has not faulted, a tick counts both timers and beeps exactly where ST is 1 (R244). -/
theorem operate_tick_of_not_faulted {s : State} (hs : s.isFaulted = false) :
    operate .tick s = .next (s.countTimers, if s.ST.toNat = 1 then [.beep] else []) := by
  have hbeep : s.tickBeeps = true ↔ s.ST.toNat = 1 := by
    rw [State.tickBeeps, hs, Bool.not_false, Bool.true_and]
    exact beq_iff_toNat_eq
  rw [operate, tick_of_not_faulted hs]
  simp only [hbeep]

/-! #### DT is an item that a step without Fx07 does not read (rule R245) -/

/-- `u` differs from `s` at most in DT. -/
def SameButDelay (s u : State) : Prop := ∃ b, u = { s with DT := b }

/-- DT is no part of a fetch, and no write of `run`, pc or a register touches it (R30). -/
theorem unread_delay : Unread SameButDelay where
  same := by rintro s _ ⟨b, rfl⟩; exact ⟨rfl, rfl, rfl, rfl⟩
  setRun := by rintro s _ ⟨b, rfl⟩ r; exact ⟨b, rfl⟩
  setPc := by rintro s _ ⟨b, rfl⟩ w; exact ⟨b, rfl⟩
  setV := by rintro s _ ⟨b, rfl⟩ x c; exact ⟨b, rfl⟩

/-- What an instruction other than Fx07 writes does not depend on DT: Fx15 sets it. -/
theorem SameButDelay.writes {s u : State} (h : SameButDelay s u) {i : Instr} (hi : ∀ x, i ≠ .ldVxDt x) :
    SameButDelay (writes i s) (writes i u) := by
  obtain ⟨b, rfl⟩ := h
  cases i with
  | ldVxDt x => exact absurd rfl (hi x)
  | ldDtVx x => exact ⟨s.getV x, rfl⟩
  | ret => refine ⟨b, ?_⟩; simp only [Machine.writes]; split <;> rfl
  | call nnn => refine ⟨b, ?_⟩; simp only [Machine.writes]; split <;> rfl
  | _ => exact ⟨b, rfl⟩

/-- Fx07 alone reads DT (R245). -/
theorem SameButDelay.exec {s u : State} (h : SameButDelay s u) {i : Instr} (hi : ∀ x, i ≠ .ldVxDt x) :
    AnswersRelated SameButDelay (exec i s) (exec i u) := by
  have hwrites := h.writes hi
  obtain ⟨b, rfl⟩ := h
  exact unread_delay.exec ⟨b, rfl⟩ rfl rfl hwrites

/-! #### A run of operations that neither resets nor faults -/

section
variable {bad : Instr → Bool} {op : Operation} {ops : List Operation} {s t : State} {es : List Event}

/-- Faulted is left by no operation but `reset()` (R268). -/
theorem not_faulted_of_operate (h : operate op s = .next (t, es)) (hreset : op ≠ .reset)
    (ht : t.isFaulted = false) : s.isFaulted = false := by
  cases hr : s.run with
  | faulted c p info => exact (isFaulted_congr (operate_run_of_faulted hr hreset h)).symm.trans ht
  | running | awaitingKey x => simp only [State.isFaulted, hr]

/-- A run without `reset()` that ends in no fault starts in none. -/
theorem not_faulted_of_operateAll : ∀ {ops s es}, operateAll ops s = .next (t, es) → runAvoids bad ops s = true →
    t.isFaulted = false → s.isFaulted = false
  | [], _, _, h, _, ht => by cases h; exact ht
  | _ :: _, _, _, h, havoids, ht => by
    obtain ⟨_, _, _, hop, hrest, -⟩ := operateAll_cons h
    obtain ⟨hreset, havoids⟩ := runAvoids_cons havoids hop
    exact not_faulted_of_operate hop hreset (not_faulted_of_operateAll hrest havoids ht)

theorem any_nextInstr?_of_runAvoids_step (h : runAvoids bad (.step :: ops) s = true) :
    s.nextInstr?.any bad = false := by
  rw [runAvoids, Bool.and_eq_true, Bool.not_eq_true'] at h
  exact h.1

theorem nextInstr?_ne_of_any_eq_false {i : Instr} (hi : bad i = true) (h : s.nextInstr?.any bad = false) :
    s.nextInstr? ≠ some i := by
  intro hnext
  rw [hnext, Option.any_some, hi] at h
  cases h

theorem tickCount_cons_tick : tickCount (.tick :: ops) = tickCount ops + 1 := List.count_cons_self

theorem tickCount_cons_of_ne (h : op ≠ .tick) : tickCount (op :: ops) = tickCount ops := List.count_cons_of_ne h

theorem beepCount_append (es es' : List Event) : beepCount (es ++ es') = beepCount es + beepCount es' :=
  List.count_append

/-- Only a tick beeps (R247). -/
theorem beepCount_of_ne_tick (h : operate op s = .next (t, es)) (hop : op ≠ .tick) : beepCount es = 0 := by
  cases op with
  | tick => exact absurd rfl hop
  | step => rw [(operate_step_iff.mp h).2]; rfl
  | reset | loadGame bytes | setKey k pressed | snapshot => cases h; rfl

end

/-! #### What a run of operations does to a timer (rules R245, R246) -/

/-- `timer` is an item that a tick counts down and that, `reset()` apart, nothing else writes but instructions of
`bad`. -/
structure CountsDown (timer : State → Byte) (bad : Instr → Bool) : Prop where
  tick : ∀ s, timer s.countTimers = countDown (timer s)
  step : ∀ {s t}, step s = .next t → s.nextInstr?.any bad = false → timer t = timer s
  loadGame : ∀ s bytes, timer (s.loadGame bytes) = timer s
  setKey : ∀ s k pressed, timer (s.setKey k pressed) = timer s
  snapshot : ∀ s, timer s.acknowledgeFrame = timer s

/-- A step that does not execute Fx15 leaves DT (R30). -/
theorem step_DT {s t : State} (h : step s = .next t) (hnext : ∀ x, s.nextInstr? ≠ some (.ldDtVx x)) : t.DT = s.DT := by
  rcases step_cases h with ⟨c, info, rfl⟩ | ⟨-, rfl⟩ | ⟨i, hi, hexec⟩ | ⟨x, k, -, -, w, rfl⟩
  · rfl
  · rfl
  · exact exec_keeps State.DT hexec (writes_DT fun x hx => hnext x (hx ▸ hi))
  · rfl

theorem countsDown_DT {bad : Instr → Bool} (hbad : ∀ x, bad (.ldDtVx x) = true) : CountsDown State.DT bad where
  tick _ := rfl
  step h hany := step_DT h fun x => nextInstr?_ne_of_any_eq_false (hbad x) hany
  loadGame s bytes := by unfold State.loadGame; split_ifs <;> rfl
  setKey _ _ _ := rfl
  snapshot _ := rfl

theorem countsDown_ST {bad : Instr → Bool} (hbad : ∀ x, bad (.ldStVx x) = true) : CountsDown State.ST bad where
  tick _ := rfl
  step h hany := step_ST h fun x => nextInstr?_ne_of_any_eq_false (hbad x) hany
  loadGame s bytes := by unfold State.loadGame; split_ifs <;> rfl
  setKey _ _ _ := rfl
  snapshot _ := rfl

section
variable {timer : State → Byte} {bad : Instr → Bool}

theorem CountsDown.operate_of_ne_tick (hT : CountsDown timer bad) {op : Operation} {ops : List Operation} {s t : State}
    {es : List Event} (h : operate op s = .next (t, es)) (hop : op ≠ .tick)
    (havoids : runAvoids bad (op :: ops) s = true) : timer t = timer s := by
  cases op with
  | tick => exact absurd rfl hop
  | reset => cases havoids
  | step => exact hT.step (operate_step_iff.mp h).1 (any_nextInstr?_of_runAvoids_step havoids)
  | loadGame bytes => cases h; exact hT.loadGame s bytes
  | setKey k pressed => cases h; exact hT.setKey s k pressed
  | snapshot => cases h; exact hT.snapshot s

/-- After k ticks a timer that held v holds v - k, stopping at 0 (R245, R246). -/
theorem CountsDown.toNat_after_run (hT : CountsDown timer bad) : ∀ {ops s t es}, operateAll ops s = .next (t, es) →
    runAvoids bad ops s = true → t.isFaulted = false → (timer t).toNat = (timer s).toNat - tickCount ops
  | [], _, _, _, h, _, _ => by cases h; rfl
  | op :: _, _, _, _, h, havoids, ht => by
    have hs := not_faulted_of_operateAll h havoids ht
    obtain ⟨_, _, _, hop, hrest, -⟩ := operateAll_cons h
    have hafter := hT.toNat_after_run hrest (runAvoids_cons havoids hop).2 ht
    rcases eq_or_ne op .tick with rfl | hne
    · rw [operate_tick_of_not_faulted hs] at hop
      cases hop
      rw [hafter, hT.tick, countDown_toNat, tickCount_cons_tick, Nat.sub_sub, Nat.add_comm]
    · rw [hafter, hT.operate_of_ne_tick hop hne havoids, tickCount_cons_of_ne hne]

end

/-- A run beeps once if its ticks bring ST from 1 or more to 0, else never (R246). -/
theorem beepCount_after_run {bad : Instr → Bool} (hbad : ∀ x, bad (.ldStVx x) = true) : ∀ {ops s t es},
    operateAll ops s = .next (t, es) → runAvoids bad ops s = true → t.isFaulted = false →
      beepCount es = if 1 ≤ s.ST.toNat ∧ s.ST.toNat ≤ tickCount ops then 1 else 0
  | [], s, _, _, h, _, _ => by
    cases h
    have hnone : ¬ (1 ≤ s.ST.toNat ∧ s.ST.toNat ≤ 0) := by omega
    exact (if_neg hnone).symm
  | op :: ops, s, _, _, h, havoids, ht => by
    have hT := countsDown_ST hbad
    have hs := not_faulted_of_operateAll h havoids ht
    obtain ⟨_, _, _, hop, hrest, rfl⟩ := operateAll_cons h
    have hafter := beepCount_after_run hbad hrest (runAvoids_cons havoids hop).2 ht
    rw [beepCount_append, hafter]
    rcases eq_or_ne op .tick with rfl | hne
    · rw [operate_tick_of_not_faulted hs] at hop
      cases hop
      rw [hT.tick, countDown_toNat, tickCount_cons_tick]
      by_cases hone : s.ST.toNat = 1
      · simp [hone, beepCount]
      · have hlate : (1 ≤ s.ST.toNat - 1 ∧ s.ST.toNat - 1 ≤ tickCount ops) ↔
            (1 ≤ s.ST.toNat ∧ s.ST.toNat ≤ tickCount ops + 1) := by omega
        simp only [if_neg hone, hlate]
        exact Nat.zero_add _
    · rw [beepCount_of_ne_tick hop hne, Nat.zero_add, hT.operate_of_ne_tick hop hne havoids, tickCount_cons_of_ne hne]

end Sys2Proof.Machine

section
/-! ### The statements of 46_timers.md -/

open Sys2Proof Sys2Proof.Machine

/-- Settles O38: each writes one item and advances, and reads its operand before that. -/
theorem timerInstructions : Obligations.TimerInstructions := fun s x =>
  ⟨completesWithReg_of_advance rfl rfl,
    fun hle => ⟨⟨_, advance_of_le 2 s (s.setDT (s.getV x)) hle, rfl, toNat_target hle⟩,
      _, advance_of_le 2 s (s.setST (s.getV x)) hle, rfl, toNat_target hle⟩,
    faultsPastTheTop_of_advance rfl, faultsPastTheTop_of_advance rfl⟩

/-- Settles O39: the answer is `operate_tick_of_not_faulted`, in Running and in AwaitingKey alike. -/
theorem tickCountsBothTimersDown : Obligations.TickCountsBothTimersDown := by
  intro s hrun
  have hs : s.isFaulted = false := by
    rcases hrun with hr | ⟨x, hr⟩ <;> simp only [State.isFaulted, hr]
  exact ⟨_, _, operate_tick_of_not_faulted hs, rfl, countDown_toNat s.DT, countDown_toNat s.ST, rfl⟩

/-- Settles O40: DT and ST are items that a tick counts down, `countsDown_DT` and `countsDown_ST`. -/
theorem timersAfterAnyRun : Obligations.TimersAfterAnyRun := by
  refine fun ops s t es h ht => ⟨fun havoids => ?_, fun havoids => ?_⟩
  · exact (countsDown_DT fun _ => rfl).toNat_after_run h havoids ht
  · exact ⟨(countsDown_ST fun _ => rfl).toNat_after_run h havoids ht, beepCount_after_run (fun _ => rfl) h havoids ht⟩

/-- Settles O43: DT is an item that a step without Fx07 does not read, `SameButDelay.exec`. -/
theorem onlyFx07ReadsTheDelayTimer : Obligations.OnlyFx07ReadsTheDelayTimer := by
  intro s t b hnext h
  have hsame : SameButDelay s { s with DT := b } := ⟨b, rfl⟩
  obtain ⟨_, hstep, b', rfl⟩ := unread_delay.step hsame (fun i hi => hsame.exec fun x hx => hnext x (hx ▸ hi)) t h
  exact ⟨b', hstep⟩

end

/-! ### Loads (rules R291, R292) -/

namespace Sys2Proof.Machine

section
variable {s : State} {bytes : List Byte}

theorem operate_loadGame_of_le (h : bytes.length ≤ 3584) :
    operate (.loadGame bytes) s = .next (s.storeBytes 0x200 bytes, []) := by
  rw [operate, loadGame_of_le h]

/-- An over-long load enters the fault where the engine has not faulted (R292). -/
theorem operate_loadGame_of_gt_of_not_faulted (h : bytes.length > 3584) (hs : s.isFaulted = false) :
    operate (.loadGame bytes) s = .next (s.enterFault .outOfRangeAddress 0x1000#16, []) := by
  rw [operate, loadGame_of_gt h, hs, if_neg Bool.false_ne_true]

/-- In Faulted an over-long load does nothing (R292). -/
theorem operate_loadGame_of_gt_of_faulted (h : bytes.length > 3584) (hs : s.isFaulted = true) :
    operate (.loadGame bytes) s = .next (s, []) := by
  rw [operate, loadGame_of_gt_of_faulted hs h]

end

end Sys2Proof.Machine

section
/-! ### The statements of 70_reset_and_hazards.md -/

open Sys2Proof.Machine

/-- Settles O53: a load that fits stores its bytes at 0x200, and the block ends at 0x1000 at the latest, so each byte is
read back where it was put, `memByte_storeBytes_add`. -/
theorem loadGameCopiesVerbatim : Obligations.LoadGameCopiesVerbatim := by
  intro s bytes hwf hlen
  have hblock : 0x200 + bytes.length ≤ 0x1000 := by omega
  exact ⟨s.storeBytes 0x200 bytes, operate_loadGame_of_le hlen, rfl,
    fun _ hk => memByte_storeBytes_add hwf hblock hk, fun _ ha => memByte_storeBytes_other s ha⟩

/-- Settles O54: the two cases of an over-long load; `State.enterFault` writes `run` alone and
`State.acknowledgeFrame` writes `frame_dirty` alone. -/
theorem overlongLoadFaultsAndSnapshotAcknowledges : Obligations.OverlongLoadFaultsAndSnapshotAcknowledges := fun _ _ =>
  ⟨operate_loadGame_of_gt_of_not_faulted, operate_loadGame_of_gt_of_faulted, rfl⟩

end
